-- ==== Sys2Proof/Word.lean ====
section
/-! DEFINITION. The word types of the block (00_scope.md R8: a byte is 8 bits, every quantity is unsigned). -/

namespace Sys2Proof

/-- One input byte, R60. -/
abbrev Byte := BitVec 8

/-- A consumer's slot address, 9 bits (R6 `RDADDR_W`, R46). -/
abbrev ReadAddr := BitVec 9

/-- A SLOT word as `rd_data` carries it, 33 bits (R31). -/
abbrev SlotWord := BitVec 33

/-- The control vector `v = rst << 3 | src_err << 2 | stop << 1 | in_valid` (R72). -/
abbrev ControlVector := BitVec 4

end Sys2Proof
end

