-- ==== Sys2Proof/Config.lean ====
section
/-! DEFINITION. The fixed parameters of 00_scope.md R6. The one OPEN parameter there, `N_RD_PORTS`, is no constant
here: a step takes any number of read addresses (DESIGN CHOICE, log 7). -/

namespace Sys2Proof.Config

/-- `N_ANGLES`: slots of the table, one per integer degree. -/
@[simp] def nAngles : Nat := 360
/-- `N_BLOCKS`: angle-blocks 0..89. -/
@[simp] def nBlocks : Nat := 90
/-- `SAMPLES_PER_PKT`. -/
@[simp] def samplesPerPkt : Nat := 4
/-- `PKT_LEN`: bytes of a packet, start marker through last checksum byte. -/
@[simp] def pktLen : Nat := 22
/-- `CK_SPAN`: bytes the checksum covers. -/
@[simp] def ckSpan : Nat := 20
/-- `BODY_LEN`: bytes consumed in READ_PACKET. -/
@[simp] def bodyLen : Nat := 18
/-- `MARKER`. -/
@[simp] def marker : Byte := 0xFA
/-- `IDX_BASE`. -/
@[simp] def idxBase : Byte := 0xA0
/-- `IDX_LAST`. -/
@[simp] def idxLast : Byte := 0xF9
/-- `DIST_BITS` as the mask on the second byte of a group. -/
@[simp] def distMask : Byte := 0x3F
/-- `CK_BITS` as the mask of the reduction. -/
@[simp] def ckMask : Nat := 0x7FFF
/-- `CK_BITS`. -/
@[simp] def ckBits : Nat := 15
/-- `SPEED_DIV`. -/
@[simp] def speedDiv : Nat := 64
/-- `SENT_DIST`: R6 fixes it, although its literal is unaudited (93_implementation_defined.md I4). -/
@[simp] def sentDist : BitVec 16 := 0x8000
/-- `SENT_QUAL`. -/
@[simp] def sentQual : BitVec 16 := 0

end Sys2Proof.Config
end

