-- ==== Sys2Proof/Syntax.lean ====
section
/-! DEFINITION. The operations of the block: one constructor per row of spec/opcode_table.json (00_scope.md R7 reads
"instruction" as one operation), and what an operation is selected from: the framing state, the byte counter and the
input of the step (30_encoding.md R67, R72). -/

namespace Sys2Proof

/-- The eight values of the 3-bit register `st` (10_state.md R21), in the order of their codes 0..7. -/
inductive Framing where
  | seekStart
  | readIndex
  | readPacket
  | readChecksum
  | fault
  | stopped
  /-- Code 6: "unreachable: no rule writes them". -/
  | unused6
  /-- Code 7. -/
  | unused7
deriving DecidableEq, Repr

/-- One operation of the block. A BYTE operation carries the input byte `x`, its operand (R80 to R87, R145). -/
inductive Instr where
  | seekMarker (x : Byte)
  | seekDiscard (x : Byte)
  | idxAccept (x : Byte)
  | idxRemark (x : Byte)
  | idxDiscard (x : Byte)
  | bodyByte (x : Byte)
  | ckLo (x : Byte)
  | ckHi (x : Byte)
  | haltedByte (x : Byte)
  | reset
  | srcErr
  | stop
  | idle
  | rdSlot (addr : ReadAddr)
  | rdStatus
deriving DecidableEq, Repr

/-- The three formats of the opcode table (R72). -/
inductive Format where
  | byte
  | ctrl
  | port
deriving DecidableEq, Repr

/-- What is decoded in one step: the control vector and the byte on `in_byte` (the BYTE and CTRL rows), or a
consumer read (the PORT rows, which have no match). -/
inductive InputWord where
  | cycle (v : ControlVector) (x : Byte)
  | rdSlot (addr : ReadAddr)
  | rdStatus
deriving DecidableEq, Repr

/-- All that selects an operation: the columns `st` and `cnt` of the table and the input. -/
structure Selection where
  st   : Framing
  cnt  : BitVec 5
  word : InputWord
deriving DecidableEq, Repr

/-- The format of an operation's row. -/
def Instr.format : Instr → Format
  | .seekMarker _ | .seekDiscard _ | .idxAccept _ | .idxRemark _ | .idxDiscard _
  | .bodyByte _ | .ckLo _ | .ckHi _ | .haltedByte _ => .byte
  | .reset | .srcErr | .stop | .idle => .ctrl
  | .rdSlot _ | .rdStatus => .port

/-- The mnemonic of an operation's row, as spec/opcode_table.json spells it. -/
def Instr.mnemonic : Instr → String
  | .seekMarker _ => "SEEK_MARKER"
  | .seekDiscard _ => "SEEK_DISCARD"
  | .idxAccept _ => "IDX_ACCEPT"
  | .idxRemark _ => "IDX_REMARK"
  | .idxDiscard _ => "IDX_DISCARD"
  | .bodyByte _ => "BODY_BYTE"
  | .ckLo _ => "CK_LO"
  | .ckHi _ => "CK_HI"
  | .haltedByte _ => "HALTED_BYTE"
  | .reset => "RESET"
  | .srcErr => "SRC_ERR"
  | .stop => "STOP"
  | .idle => "IDLE"
  | .rdSlot _ => "RD_SLOT"
  | .rdStatus => "RD_STATUS"

end Sys2Proof
end

