-- ==== Sys2Proof/WellFormed.lean ====
section
/-! DEFINITION. Which operations are well formed: a BYTE operation's operand lies in the byte class of its row
(30_encoding.md R67); every other operand is free. -/

namespace Sys2Proof

/-- The index range 0xA0..0xF9 (R63, R67). -/
@[simp] def isIndexByte (x : Byte) : Bool := Config.idxBase.toNat ≤ x.toNat && x.toNat ≤ Config.idxLast.toNat

/-- The start marker (R67). -/
@[simp] def isMarker (x : Byte) : Bool := x == Config.marker

/-- The operand check of each operation. -/
def Instr.wellFormed : Instr → Bool
  | .seekMarker x => isMarker x
  | .seekDiscard x => !isMarker x
  | .idxAccept x => isIndexByte x
  | .idxRemark x => isMarker x
  | .idxDiscard x => !isIndexByte x && !isMarker x
  | .bodyByte _ => true
  | .ckLo _ => true
  | .ckHi _ => true
  | .haltedByte _ => true
  | .reset => true
  | .srcErr => true
  | .stop => true
  | .idle => true
  | .rdSlot _ => true
  | .rdStatus => true

end Sys2Proof
end

