-- ==== Sys2Proof/Decode.lean ====
section
/-! DEFINITION. The decode map (30_encoding.md R67, R72; 43_control.md R141; 60_exceptions.md R166): from the
framing state, the byte counter and the step's input to one operation, total, rejecting by name. After it the encoder,
the opcode table as data (R68, R72) and the numbering of a whole selection as one word. -/

namespace Sys2Proof

/-- Why a selection names no operation. -/
inductive DecodeError where
  /-- A byte offered while `st` holds 6 or 7: "select nothing" (R141). -/
  | unusedFramingState
deriving DecidableEq, Repr

/-- A byte event: `Step`'s inner case of R141. In READ_CHECKSUM every `cnt` but 0 selects CK_HI, as R141 writes it
(DEDUCED, log 4: values above 1 are unreachable). -/
def decodeByte (st : Framing) (cnt : BitVec 5) (x : Byte) : Except DecodeError Instr :=
  match st with
  | .seekStart => .ok (if isMarker x then .seekMarker x else .seekDiscard x)
  | .readIndex =>
    .ok (if isIndexByte x then .idxAccept x else if isMarker x then .idxRemark x else .idxDiscard x)
  | .readPacket => .ok (.bodyByte x)
  | .readChecksum => .ok (if cnt = 0 then .ckLo x else .ckHi x)
  | .fault => .ok (.haltedByte x)
  | .stopped => .ok (.haltedByte x)
  | .unused6 => .error .unusedFramingState
  | .unused7 => .error .unusedFramingState

/-- `rst`, `src_err`, `stop` and `in_valid` in the control vector of R72. -/
def ControlVector.rst (v : ControlVector) : Bool := v.getLsbD 3
def ControlVector.srcErr (v : ControlVector) : Bool := v.getLsbD 2
def ControlVector.stop (v : ControlVector) : Bool := v.getLsbD 1
def ControlVector.inValid (v : ControlVector) : Bool := v.getLsbD 0

/-- The pins of one cycle form one event by the priority of R166: `rst`, `src_err`, `stop`, a byte, idle. A consumer
read is an operation of its own (R46, R47). -/
def decode (st : Framing) (cnt : BitVec 5) : InputWord → Except DecodeError Instr
  | .cycle v x =>
    if v.rst then .ok .reset
    else if v.srcErr then .ok .srcErr
    else if v.stop then .ok .stop
    else if v.inValid then decodeByte st cnt x
    else .ok .idle
  | .rdSlot addr => .ok (.rdSlot addr)
  | .rdStatus => .ok .rdStatus

/-- The input of an operation: a BYTE row needs `v = 0001`; a CTRL row's `match` (R72). -/
def encode : Instr → InputWord
  | .seekMarker x => .cycle 0b0001 x
  | .seekDiscard x => .cycle 0b0001 x
  | .idxAccept x => .cycle 0b0001 x
  | .idxRemark x => .cycle 0b0001 x
  | .idxDiscard x => .cycle 0b0001 x
  | .bodyByte x => .cycle 0b0001 x
  | .ckLo x => .cycle 0b0001 x
  | .ckHi x => .cycle 0b0001 x
  | .haltedByte x => .cycle 0b0001 x
  | .reset => .cycle 0b1000 0
  | .srcErr => .cycle 0b0100 0
  | .stop => .cycle 0b0010 0
  | .idle => .cycle 0b0000 0
  | .rdSlot addr => .rdSlot addr
  | .rdStatus => .rdStatus

/-- In which `(st, cnt)` an operation can be selected: the state column of R67, with `cnt` as R141 reads it. -/
def Instr.selectedIn (i : Instr) (st : Framing) (cnt : BitVec 5) : Bool :=
  match i with
  | .seekMarker _ => st == .seekStart
  | .seekDiscard _ => st == .seekStart
  | .idxAccept _ => st == .readIndex
  | .idxRemark _ => st == .readIndex
  | .idxDiscard _ => st == .readIndex
  | .bodyByte _ => st == .readPacket
  | .ckLo _ => st == .readChecksum && cnt == 0
  | .ckHi _ => st == .readChecksum && cnt != 0
  | .haltedByte _ => st == .fault || st == .stopped
  | .reset => true
  | .srcErr => true
  | .stop => true
  | .idle => true
  | .rdSlot _ => true
  | .rdStatus => true

/-! ### The codes of `st` -/

/-- The 3-bit code of a framing state (R21). -/
def Framing.code : Framing → BitVec 3
  | .seekStart => 0
  | .readIndex => 1
  | .readPacket => 2
  | .readChecksum => 3
  | .fault => 4
  | .stopped => 5
  | .unused6 => 6
  | .unused7 => 7

/-- The framing state of a 3-bit code. -/
def Framing.ofCode (c : BitVec 3) : Framing :=
  match c.toNat with
  | 0 => .seekStart
  | 1 => .readIndex
  | 2 => .readPacket
  | 3 => .readChecksum
  | 4 => .fault
  | 5 => .stopped
  | 6 => .unused6
  | _ => .unused7

/-- The values `cnt` takes in each framing state (R22). -/
def counterInRange (st : Framing) (cnt : BitVec 5) : Bool :=
  match st with
  | .readPacket => decide (cnt.toNat ≤ 17)
  | .readChecksum => decide (cnt.toNat ≤ 1)
  | .seekStart | .readIndex | .fault | .stopped | .unused6 | .unused7 => cnt == 0

/-! ### The opcode table as data

`spec/opcode_table.json`'s BYTE and CTRL rows, with the match and mask pairs of R68 and R72. PORT rows have no match. -/

/-- A byte is in a class when `x & mask = match` for one of the pairs (R68). -/
def inPairs (pairs : List (Byte × Byte)) (x : Byte) : Bool :=
  pairs.any fun p => x &&& p.2 == p.1

/-- One row: its mnemonic, `match` and `mask` on the control vector, the framing states, the range of `cnt`, and the
(match, mask) pairs on the byte. -/
structure OpRow where
  mnemonic  : String
  ctrl      : ControlVector
  ctrlMask  : ControlVector
  states    : List Framing
  cntFrom   : Nat
  cntTo     : Nat
  pairs     : List (Byte × Byte)
deriving DecidableEq, Repr

/-- Every state `st` can hold by R21. -/
def Framing.named : List Framing := [.seekStart, .readIndex, .readPacket, .readChecksum, .fault, .stopped]

/-- R68: 0xA0..0xF9. -/
def indexPairs : List (Byte × Byte) := [(0xA0, 0xE0), (0xC0, 0xE0), (0xE0, 0xF0), (0xF0, 0xF8), (0xF8, 0xFE)]
/-- R68: 0xFA. -/
def markerPairs : List (Byte × Byte) := [(0xFA, 0xFF)]
/-- R68: neither an index byte nor the marker. -/
def neitherPairs : List (Byte × Byte) := [(0x00, 0x80), (0x80, 0xE0), (0xFB, 0xFF), (0xFC, 0xFC)]
/-- R68: every byte but the marker. -/
def notMarkerPairs : List (Byte × Byte) :=
  [(0x00, 0x80), (0x80, 0xC0), (0xC0, 0xE0), (0xE0, 0xF0), (0xF0, 0xF8), (0xF8, 0xFE), (0xFB, 0xFF), (0xFC, 0xFC)]
/-- R68: any byte. -/
def anyPairs : List (Byte × Byte) := [(0x00, 0x00)]

/-- The rows of a step (R72). -/
def opcodeTable : List OpRow :=
  [ ⟨"SEEK_MARKER", 0b0001, 0b1111, [.seekStart], 0, 31, markerPairs⟩,
    ⟨"SEEK_DISCARD", 0b0001, 0b1111, [.seekStart], 0, 31, notMarkerPairs⟩,
    ⟨"IDX_ACCEPT", 0b0001, 0b1111, [.readIndex], 0, 31, indexPairs⟩,
    ⟨"IDX_REMARK", 0b0001, 0b1111, [.readIndex], 0, 31, markerPairs⟩,
    ⟨"IDX_DISCARD", 0b0001, 0b1111, [.readIndex], 0, 31, neitherPairs⟩,
    ⟨"BODY_BYTE", 0b0001, 0b1111, [.readPacket], 0, 17, anyPairs⟩,
    ⟨"CK_LO", 0b0001, 0b1111, [.readChecksum], 0, 0, anyPairs⟩,
    ⟨"CK_HI", 0b0001, 0b1111, [.readChecksum], 1, 1, anyPairs⟩,
    ⟨"HALTED_BYTE", 0b0001, 0b1111, [.fault, .stopped], 0, 31, anyPairs⟩,
    ⟨"RESET", 0b1000, 0b1000, Framing.named, 0, 31, anyPairs⟩,
    ⟨"SRC_ERR", 0b0100, 0b1100, Framing.named, 0, 31, anyPairs⟩,
    ⟨"STOP", 0b0010, 0b1110, Framing.named, 0, 31, anyPairs⟩,
    ⟨"IDLE", 0b0000, 0b1111, Framing.named, 0, 31, anyPairs⟩ ]

/-- Does a row match a step's state, control vector and byte? -/
def OpRow.holds (r : OpRow) (st : Framing) (cnt : BitVec 5) (v : ControlVector) (x : Byte) : Bool :=
  v &&& r.ctrlMask == r.ctrl && r.states.contains st && decide (r.cntFrom ≤ cnt.toNat)
    && decide (cnt.toNat ≤ r.cntTo) && inPairs r.pairs x

/-- The mnemonics of all the rows that match. -/
def matchingRows (st : Framing) (cnt : BitVec 5) (v : ControlVector) (x : Byte) : List String :=
  (opcodeTable.filter (·.holds st cnt v x)).map (·.mnemonic)

/-! ### One word for a selection

The table numbers only the bits of `x` (8) and of the control vector (4), each from its own bit 0. The model's own
numbering of a whole selection (DESIGN CHOICE, log 9): a word of at most 8 bits is a byte offered in SEEK_START; a
longer word holds `x` in bits 7..0, the control vector in bits 11..8, `st` in bits 14..12, `cnt` in bits 19..15 and the
kind in bits 21..20 (0 a cycle, 1 RD_SLOT with its address in bits 8..0, 2 RD_STATUS); every other bit must be 0. -/

/-- The long word of a selection. -/
def Selection.toBits (sel : Selection) : Nat :=
  match sel.word with
  | .cycle v x => x.toNat + 2 ^ 8 * v.toNat + 2 ^ 12 * sel.st.code.toNat + 2 ^ 15 * sel.cnt.toNat
  | .rdSlot addr => addr.toNat + 2 ^ 20
  | .rdStatus => 2 ^ 21

/-- The fields of a long word, before the check that nothing else is set. -/
def Selection.fields (w : Nat) : Selection :=
  let b := BitVec.ofNat 22 w
  if b.extractLsb' 20 2 = 0 then
    ⟨Framing.ofCode (b.extractLsb' 12 3), b.extractLsb' 15 5, .cycle (b.extractLsb' 8 4) (b.extractLsb' 0 8)⟩
  else if b.extractLsb' 20 2 = 1 then ⟨.seekStart, 0, .rdSlot (b.extractLsb' 0 9)⟩
  else ⟨.seekStart, 0, .rdStatus⟩

/-- The selection of a word; `none` where a bit outside its fields is set. -/
def selectionOfWord (nbits w : Nat) : Option Selection :=
  if nbits ≤ 8 then
    if w < 256 then some ⟨.seekStart, 0, .cycle 0b0001 (BitVec.ofNat 8 w)⟩ else none
  else if (Selection.fields w).toBits = w then some (Selection.fields w) else none

/-- The operation the decoder reads from a word. -/
def decodeTableWord (nbits w : Nat) : Option Instr :=
  match selectionOfWord nbits w with
  | none => none
  | some sel => (decode sel.st sel.cnt sel.word).toOption

end Sys2Proof
end

