-- ==== Sys2Proof/Machine/State.lean ====
section
/-! DEFINITION. The state of the block (10_state.md R20 to R30) as plain data, beside it the model's own fields for
the outside (the bytes at the byte source and what the pins and the consumers do) and for the outputs of the last
step, the reasons a step can stop, and the state right after reset (70_reset_and_hazards.md R180). -/

namespace Sys2Proof.Machine

/-- One entry of the table: `{filled: 1 bit, dist: 16 bits, qual: 16 bits}` (R28). -/
structure Slot where
  filled : Bool
  dist   : BitVec 16
  qual   : BitVec 16
deriving DecidableEq, Repr

/-- The empty slot `{0, 0, 0}`: the reset contents of every slot (R28), so what an unlisted address reads as. -/
def Slot.empty : Slot := { filled := false, dist := 0, qual := 0 }

/-- The table as a list of (angle, slot) in one canonical form: angles rising, none outside 0..359, no empty slot
listed (`Table.wf`). The unit is a whole slot, the only unit the table is accessed in (R40, R44; DESIGN CHOICE, log 6). -/
abbrev Table := List (Nat × Slot)

/-- The result codes of R160; codes 5..7 are never emitted and have no name. -/
inductive Evt where
  | none
  | pktOk
  | pktBad
  | srcFault
  | stopAck
deriving DecidableEq, Repr

/-- The input pins of one cycle (R146): `rd_addr` holds one address per read port (`N_RD_PORTS`, log 7). The byte on
`in_byte` is the head of `source`. -/
structure Pins where
  rst     : Bool
  srcErr  : Bool
  stop    : Bool
  inValid : Bool
  rdAddr  : List ReadAddr
deriving DecidableEq, Repr

/-- What one step of the model is given: a cycle of the block, or one consumer read between two steps (R46, R47). -/
inductive Input where
  | cycle (p : Pins)
  | readSlot (addr : ReadAddr)
  | readStatus
deriving DecidableEq, Repr

/-- The outputs of the last step (R140, R146, R160). They are not state of the block and no meaning reads them; a step
answers only with a state, so the model writes them here (DESIGN CHOICE, log 2). -/
structure Outputs where
  inReady  : Bool
  consumed : Bool
  evt      : Evt
  evtBlk   : BitVec 7
  rdData   : List SlotWord
  status   : BitVec 8
  speed    : BitVec 16
  errcnt   : BitVec 32
deriving DecidableEq, Repr

/-- The machine. The first nine fields are the state of R20; the last three are the model's own (log 1, log 2). -/
structure State where
  /-- R21. -/
  st         : Framing
  /-- R24. -/
  blk        : BitVec 7
  /-- R22. -/
  cnt        : BitVec 5
  /-- R25. -/
  buf        : Vector Byte 18
  /-- R26. -/
  cklo       : Byte
  /-- R28. -/
  tbl        : Table
  /-- R29. -/
  speedRaw   : BitVec 16
  /-- R29. -/
  speedValid : Bool
  /-- R30. -/
  errCnt     : BitVec 32
  /-- The bytes at the byte source, the offered one first (R41, R145). -/
  source     : List Byte
  /-- What each coming step is given. -/
  inputs     : List Input
  /-- The outputs of the last step. -/
  out        : Outputs
deriving DecidableEq, Repr

/-- The reasons a step can stop. Each arises only in states that the spec calls unreachable, and each is safe: the
model stops where no rule says what the block does. -/
inductive Fault where
  /-- A byte, a source error or a stop while `st` holds 6 or 7 (R141, I11). Raised by the decoder, SRC_ERR and STOP.
  Safe. -/
  | unusedFramingState
  /-- BODY_BYTE with `cnt` in 18..31: `buf` has no such register (R22, R25). Raised by BODY_BYTE. Safe. -/
  | bodyIndexOutOfRange
  /-- A commit with `blk` in 90..127: the table has no such angle (R24, R40). Raised by CK_HI. Safe. -/
  | angleOutOfTable
deriving DecidableEq, Repr

/-- The reasons a step can be refused. Nothing refuses. -/
inductive Refusal where
  /-- An operation without a meaning, by its mnemonic. Raised by no arm. Safe. -/
  | notModelled (mnemonic : String)
deriving DecidableEq, Repr

/-- Outputs before the first step: DESIGN CHOICE all zero (log 2). -/
def Outputs.initial : Outputs :=
  { inReady := false, consumed := false, evt := .none, evtBlk := 0, rdData := [], status := 0, speed := 0, errcnt := 0 }

/-- The block right after `Reset` (R180), with nothing at the byte source and no pins scheduled (log 1). -/
def State.reset : State :=
  { st         := .seekStart
    blk        := 0
    cnt        := 0
    buf        := Vector.replicate 18 0
    cklo       := 0
    tbl        := []
    speedRaw   := 0
    speedValid := false
    errCnt     := 0
    source     := []
    inputs     := []
    out        := Outputs.initial }

end Sys2Proof.Machine
end

