-- ==== Sys2Proof/Machine/Table.lean ====
section
/-! DEFINITION. The table's operations (20_memory.md R40, R44, R46): a whole slot read or written at an angle. -/

namespace Sys2Proof.Machine

/-- The slot listed at an address, or the empty one. -/
def Table.lookup : Table → Nat → Slot
  | [], _ => Slot.empty
  | (b, u) :: rest, a => if b = a then u else Table.lookup rest a

/-- The table with nothing listed at an address. -/
def Table.erase : Table → Nat → Table
  | [], _ => []
  | (b, u) :: rest, a => if b = a then Table.erase rest a else (b, u) :: Table.erase rest a

/-- A slot listed before the first greater address. -/
def Table.insert : Table → Nat → Slot → Table
  | [], a, v => [(a, v)]
  | (b, u) :: rest, a, v => if a < b then (a, v) :: (b, u) :: rest else (b, u) :: Table.insert rest a v

/-- `TblWrite(a, slot)` replaces the whole slot (R44). Writing the empty slot removes the entry. -/
def Table.write (t : Table) (a : Nat) (v : Slot) : Table :=
  if v = Slot.empty then t.erase a else (t.erase a).insert a v

/-- `TblRead(a)`: addresses 360..511 read as the empty slot (R46). -/
def Table.read (t : Table) (a : ReadAddr) : Slot :=
  if a.toNat ≤ 359 then t.lookup a.toNat else Slot.empty

/-- The canonical form: angles rising and inside the table, no empty slot listed. -/
abbrev Table.wf (t : Table) : Prop :=
  t.Pairwise (fun p q => p.1 < q.1) ∧ ∀ p ∈ t, p.1 < Config.nAngles ∧ p.2 ≠ Slot.empty

/-- Angle `blk*4 + k` (R63, R119). -/
def angle (blk : BitVec 7) (k : Nat) : Nat := blk.toNat * Config.samplesPerPkt + k

/-- The four slot writes of one packet (R44, R120, R121). -/
def Table.writeBlock (t : Table) (blk : BitVec 7) (slots : Vector Slot 4) : Table :=
  (((t.write (angle blk 0) slots[0]).write (angle blk 1) slots[1]).write (angle blk 2) slots[2]).write
    (angle blk 3) slots[3]

end Sys2Proof.Machine
end

