-- ==== Sys2Proof/Machine/Operands.lean ====
section
/-! DEFINITION. The fields of a packet and how each is assembled (30_encoding.md R61 to R66, 42_decode_commit.md R115
to R118), the checksum (41_checksum.md R100 to R104, R109) and the packet pseudo-operation (R71). -/

namespace Sys2Proof.Machine

/-- `le16(lo, hi) = lo | (hi << 8)` (R9). -/
def le16 (lo hi : Byte) : BitVec 16 := lo.setWidth 16 ||| (hi.setWidth 16 <<< 8)

/-- A sample group `[b0, b1, b2, b3]` (R64). -/
structure Group where
  b0 : Byte
  b1 : Byte
  b2 : Byte
  b3 : Byte
deriving DecidableEq, Repr

/-- `UnpackDistance(g) = zext_16(b0 | ((b1 & 0x3F) << 8))` (R115): the two flag bits are dropped (R27). -/
def unpackDistance (g : Group) : BitVec 16 := le16 g.b0 (g.b1 &&& Config.distMask)

/-- `UnpackQuality(g) = b2 | (b3 << 8)` (R116). -/
def unpackQuality (g : Group) : BitVec 16 := le16 g.b2 g.b3

/-- Sample group k of the body buffer (R117). -/
def sampleGroup (buf : Vector Byte 18) (k : Fin 4) : Group :=
  { b0 := buf[2 + 4 * k.val], b1 := buf[3 + 4 * k.val], b2 := buf[4 + 4 * k.val], b3 := buf[5 + 4 * k.val] }

/-- The slot a decoded group is stored as (R120). -/
def decodedSlot (g : Group) : Slot := { filled := true, dist := unpackDistance g, qual := unpackQuality g }

/-- The four slots of a valid packet (R120). -/
def decodedSlots (buf : Vector Byte 18) : Vector Slot 4 := Vector.ofFn fun k => decodedSlot (sampleGroup buf k)

/-- `SENTINEL` (R122). -/
def sentinel : Slot := { filled := true, dist := Config.sentDist, qual := Config.sentQual }

/-- `SpeedRaw = le16(buf[0], buf[1])` (R118; low byte first is the spec's decision D25, log 10). -/
def speedField (buf : Vector Byte 18) : BitVec 16 := le16 buf[0] buf[1]

/-- `rpm = SPEED / 64`, exact (R118, R47). -/
def rpm (speedRaw : BitVec 16) : ℚ := (speedRaw.toNat : ℚ) / Config.speedDiv

/-- `acc = (acc << 1) + w_t` over the words of a byte list, unbounded (R101, R102). -/
def foldWords (acc : Nat) : List Byte → Nat
  | lo :: hi :: rest => foldWords ((acc <<< 1) + (le16 lo hi).toNat) rest
  | [_] => acc
  | [] => acc

/-- `((acc & 0x7FFF) + (acc >> 15)) & 0x7FFF` (R103), 15 bits (R106). -/
def reduceAcc (acc : Nat) : BitVec 15 :=
  BitVec.ofNat Config.ckBits (((acc &&& Config.ckMask) + (acc >>> Config.ckBits)) &&& Config.ckMask)

/-- `CK(d[0..19])` (R100), a function of its 20 bytes alone (R108). -/
def checksum (d : Vector Byte 20) : BitVec 15 := reduceAcc (foldWords 0 d.toList)

/-- The 20 checksum bytes of the packet being committed (R109). -/
def checksumBytes (blk : BitVec 7) (buf : Vector Byte 18) : Vector Byte 20 :=
  (#v[Config.marker, blk.setWidth 8 + Config.idxBase] ++ buf).cast (by decide)

/-- The packet is valid exactly when `CK(d) = rx`, compared as 16-bit values (R104). -/
def checksumMatches (blk : BitVec 7) (buf : Vector Byte 18) (lo hi : Byte) : Bool :=
  (checksum (checksumBytes blk buf)).setWidth 16 == le16 lo hi

/-! ### The packet pseudo-operation -/

/-- `v[7:0]` and `v[15:8]` of a 16-bit value, the order they go on the wire (R42). -/
def loByte (v : BitVec 16) : Byte := v.extractLsb' 0 8
def hiByte (v : BitVec 16) : Byte := v.extractLsb' 8 8

/-- The body of a packet: the speed, then four groups (R61). -/
def packetBody (speed : BitVec 16) (g0 g1 g2 g3 : Group) : Vector Byte 18 :=
  #v[loByte speed, hiByte speed, g0.b0, g0.b1, g0.b2, g0.b3, g1.b0, g1.b1, g1.b2, g1.b3,
    g2.b0, g2.b1, g2.b2, g2.b3, g3.b0, g3.b1, g3.b2, g3.b3]

/-- The 22 bytes of a packet of a block with a body and a checksum field. -/
def framePacket (blk : BitVec 7) (body : Vector Byte 18) (cs : BitVec 16) : List Byte :=
  (checksumBytes blk body).toList ++ [loByte cs, hiByte cs]

/-- `PKT!(blk, speed, g0, g1, g2, g3, cs=X)` (R71). -/
def packetForced (blk : BitVec 7) (speed : BitVec 16) (g0 g1 g2 g3 : Group) (cs : BitVec 16) : List Byte :=
  framePacket blk (packetBody speed g0 g1 g2 g3) cs

/-- `PKT(blk, speed, g0, g1, g2, g3)`: the checksum field is `CK` of the first 20 bytes (R71). -/
def packet (blk : BitVec 7) (speed : BitVec 16) (g0 g1 g2 g3 : Group) : List Byte :=
  packetForced blk speed g0 g1 g2 g3
    ((checksum (checksumBytes blk (packetBody speed g0 g1 g2 g3))).setWidth 16)

end Sys2Proof.Machine
end

