-- ==== Sys2Proof/Machine/Flags.lean ====
section
/-! DEFINITION. The block has no condition codes (10_state.md R27). What it has of flags: the STATUS and SLOT words
consumers see (R31), the numbers of the result codes (60_exceptions.md R160) and the ready output (43_control.md R146). -/

namespace Sys2Proof.Machine

/-- The 3-bit number of a result code (R160). -/
def Evt.code : Evt → BitVec 3
  | .none => 0
  | .pktOk => 1
  | .pktBad => 2
  | .srcFault => 3
  | .stopAck => 4

/-- STATUS: `st` in [2:0], `speed_valid` in [3], [7:4] hardwired 0 (R31). -/
def statusWord (st : Framing) (speedValid : Bool) : BitVec 8 := 0#4 ++ BitVec.ofBool speedValid ++ st.code

/-- SLOT(a): `filled` in [32], `qual` in [31:16], `dist` in [15:0] (R31). -/
def slotWord (v : Slot) : SlotWord := BitVec.ofBool v.filled ++ v.qual ++ v.dist

/-- The states in which bytes are consumed (R142, R146). -/
def isRunning : Framing → Bool
  | .seekStart | .readIndex | .readPacket | .readChecksum => true
  | .fault | .stopped | .unused6 | .unused7 => false

/-- `in_ready`: no control pin is 1 and `st` is a running state; it does not depend on `in_valid` (R146). -/
def inReady (st : Framing) (p : Pins) : Bool := !p.rst && !p.srcErr && !p.stop && isRunning st

end Sys2Proof.Machine
end

