-- ==== Sys2Proof/Machine/Ops.lean ====
section
/-! DEFINITION. The named operations of the block: the primitives of 00_scope.md R10, the two commits
(42_decode_commit.md R120, R121), entering FAULT or STOPPED and the return from them (60_exceptions.md R163, R168;
70_reset_and_hazards.md R180), and how a step finds its input (60_exceptions.md R166, 43_control.md R146). -/

namespace Sys2Proof.Machine

/-! ### Primitives -/

/-- `emit(evt, blk)`: the step's result code (R160). A step that emits nothing else emits `NONE` and 0 (R10). -/
def State.emit (s : State) (e : Evt) (b : BitVec 7) : State :=
  { s with out := { s.out with evt := e, evtBlk := b } }

/-- `consume`: the offered byte is taken from the byte source. -/
def State.consume (s : State) : State :=
  { s with source := s.source.tail, out := { s.out with consumed := true } }

/-- `hold`: the offered byte, if any, stays at the source. -/
def State.hold (s : State) : State := { s with out := { s.out with consumed := false } }

/-- A byte operation that consumes and reports nothing. -/
def State.takeByte (s : State) : State := (s.consume).emit .none 0

/-- A step that consumes nothing and reports nothing. -/
def State.noEffect (s : State) : State := (s.hold).emit .none 0

/-! ### The commits -/

/-- COMMIT_OK (R120): four decoded samples and the speed. -/
def State.commitOk (s : State) : State :=
  { s.emit .pktOk s.blk with
    tbl        := s.tbl.writeBlock s.blk (decodedSlots s.buf)
    speedRaw   := speedField s.buf
    speedValid := true }

/-- COMMIT_BAD (R121): four sentinels and the error counter, modulo 2^32. The recoverable error of R162. -/
def State.commitBad (s : State) : State :=
  { s.emit .pktBad s.blk with
    tbl    := s.tbl.writeBlock s.blk (Vector.replicate 4 sentinel)
    errCnt := s.errCnt + 1 }

/-! ### Errors: entry and return -/

/-- Entering FAULT or STOPPED (R142, R143): the state, the counter and the result code; a packet being assembled is
dropped and nothing is saved (R167). -/
def State.enterHalt (s : State) (target : Framing) (e : Evt) : State :=
  { (s.hold).emit e 0 with st := target, cnt := 0 }

/-- RESET (R180), the only return from FAULT and STOPPED (R168): every register to its reset value. What waits at the
byte source stays there. -/
def State.resetBlock (s : State) : State :=
  { s.noEffect with
    st         := .seekStart
    blk        := 0
    cnt        := 0
    buf        := Vector.replicate 18 0
    cklo       := 0
    tbl        := []
    speedRaw   := 0
    speedValid := false
    errCnt     := 0 }

/-! ### The input of a step -/

/-- The pins once the schedule is used up: no control pin, and the byte source offers its next byte (log 1). -/
def Pins.quiet : Pins := { rst := false, srcErr := false, stop := false, inValid := true, rdAddr := [] }

/-- What this step is given. -/
def State.input (s : State) : Input := s.inputs.headD (.cycle Pins.quiet)

/-- `in_valid` reaches the block only with a byte to offer (log 13). -/
def State.offers (s : State) (p : Pins) : Bool := p.inValid && !s.source.isEmpty

/-- `v = rst << 3 | src_err << 2 | stop << 1 | in_valid` (R72). -/
def State.controlVector (s : State) (p : Pins) : ControlVector :=
  BitVec.ofBool p.rst ++ BitVec.ofBool p.srcErr ++ BitVec.ofBool p.stop ++ BitVec.ofBool (s.offers p)

/-- `in_byte`: the byte at the head of the source; with none, no operation reads it. -/
def State.inByte (s : State) : Byte := s.source.headD 0

/-- What is decoded in this step. -/
def State.inputWord (s : State) : InputWord :=
  match s.input with
  | .cycle p => .cycle (s.controlVector p) s.inByte
  | .readSlot addr => .rdSlot addr
  | .readStatus => .rdStatus

/-- The outputs that depend only on the state before the step (R146): `in_ready`, and the read ports, STATUS, SPEED and
ERRCNT. `consumed`, `evt` and `evt_blk` are the operation's. -/
def State.ports (s : State) (p : Pins) : Outputs :=
  { inReady  := inReady s.st p
    consumed := false
    evt      := .none
    evtBlk   := 0
    rdData   := p.rdAddr.map fun a => slotWord (s.tbl.read a)
    status   := statusWord s.st s.speedValid
    speed    := s.speedRaw
    errcnt   := s.errCnt }

/-- The state an operation runs in: the step's input is used up and its ports show the state before it. A consumer
read drives no pin and its answer is its operation's. -/
def State.beginStep (s : State) : State :=
  match s.input with
  | .cycle p => { s with inputs := s.inputs.tail, out := s.ports p }
  | .readSlot _ => { s with inputs := s.inputs.tail, out := s.ports { Pins.quiet with inValid := false } }
  | .readStatus => { s with inputs := s.inputs.tail, out := s.ports { Pins.quiet with inValid := false } }

/-- A selection that names no operation is a fault of the model (I11). -/
def decodeFault : DecodeError → Fault
  | .unusedFramingState => .unusedFramingState

/-- The pins of a control vector. -/
def pinsOf (v : ControlVector) : Pins :=
  { rst := v.rst, srcErr := v.srcErr, stop := v.stop, inValid := v.inValid, rdAddr := [] }

/-- A state in which the next step decodes a given selection: its input first in the schedule, its byte first at the
source if one is offered, and `(st, cnt)` where a byte event reads them. -/
def State.place (s : State) (sel : Selection) : State :=
  match sel.word with
  | .cycle v x =>
    let t := { s with inputs := .cycle (pinsOf v) :: s.inputs, source := if v.inValid then x :: s.source else s.source }
    if v = 0b0001 then { t with st := sel.st, cnt := sel.cnt } else t
  | .rdSlot addr => { s with inputs := .readSlot addr :: s.inputs }
  | .rdStatus => { s with inputs := .readStatus :: s.inputs }

/-- A word placed where the step finds its input; a word that names no selection changes nothing. -/
def State.placeWord (s : State) (nbits w : Nat) : State :=
  match selectionOfWord nbits w with
  | none => s
  | some sel => s.place sel

/-! ### Streams -/

/-- One item of the stream notation (R11): a byte or a control event. -/
inductive StreamItem where
  | byte (x : Byte)
  | reset
  | stop
  | srcErr
  | idle
deriving DecidableEq, Repr

/-- The pins of one item. -/
def StreamItem.pins : StreamItem → Pins
  | .byte _ => pinsOf 0b0001
  | .reset => pinsOf 0b1000
  | .stop => pinsOf 0b0010
  | .srcErr => pinsOf 0b0100
  | .idle => pinsOf 0b0000

/-- The bytes of one item. -/
def StreamItem.bytes : StreamItem → List Byte
  | .byte x => [x]
  | .reset => []
  | .stop => []
  | .srcErr => []
  | .idle => []

/-- A stream put behind what already waits: its bytes at the source, its pins in the schedule. -/
def State.feed (s : State) (items : List StreamItem) : State :=
  { s with
    source := s.source ++ items.flatMap StreamItem.bytes
    inputs := s.inputs ++ items.map fun i => .cycle i.pins }

end Sys2Proof.Machine
end

