-- ==== Sys2Proof/Machine/Control.lean ====
section
/-! DEFINITION. The CTRL operations (43_control.md R142 to R144, 70_reset_and_hazards.md R180). -/

namespace Sys2Proof.Machine

/-- RESET, R180: taken in every state. -/
def execReset (s : State) : Host.Outcome State Fault Refusal :=
  .next s.resetBlock

/-- SRC_ERR, R142: the fatal source fault of R163; nothing in FAULT or STOPPED (R169). -/
def execSrcErr (s : State) : Host.Outcome State Fault Refusal :=
  match s.st with
  | .seekStart | .readIndex | .readPacket | .readChecksum => .next (s.enterHalt .fault .srcFault)
  | .fault | .stopped => .next s.noEffect
  | .unused6 | .unused7 => .fault .unusedFramingState

/-- STOP, R143; nothing in FAULT or STOPPED (R169). -/
def execStop (s : State) : Host.Outcome State Fault Refusal :=
  match s.st with
  | .seekStart | .readIndex | .readPacket | .readChecksum => .next (s.enterHalt .stopped .stopAck)
  | .fault | .stopped => .next s.noEffect
  | .unused6 | .unused7 => .fault .unusedFramingState

/-- IDLE, R144. -/
def execIdle (s : State) : Host.Outcome State Fault Refusal :=
  .next s.noEffect

end Sys2Proof.Machine
end

