-- ==== Sys2Proof/Machine/Framing.lean ====
section
/-! DEFINITION. The BYTE operations (40_framing.md R80 to R87, 43_control.md R145). Each is the pseudocode of its rule;
that it is selected only in its state is the decoder's part (log 11). -/

namespace Sys2Proof.Machine

/-- SEEK_MARKER, R80: the marker itself is not stored. -/
def execSeekMarker (_x : Byte) (s : State) : Host.Outcome State Fault Refusal :=
  .next { s.takeByte with st := .readIndex }

/-- SEEK_DISCARD, R81: a framing desync, never surfaced (R161). -/
def execSeekDiscard (_x : Byte) (s : State) : Host.Outcome State Fault Refusal :=
  .next s.takeByte

/-- IDX_ACCEPT, R82. -/
def execIdxAccept (x : Byte) (s : State) : Host.Outcome State Fault Refusal :=
  .next { s.takeByte with blk := (x - Config.idxBase).setWidth 7, cnt := 0, st := .readPacket }

/-- IDX_REMARK, R83. -/
def execIdxRemark (_x : Byte) (s : State) : Host.Outcome State Fault Refusal :=
  .next s.takeByte

/-- IDX_DISCARD, R84: a framing desync, never surfaced (R161). -/
def execIdxDiscard (_x : Byte) (s : State) : Host.Outcome State Fault Refusal :=
  .next { s.takeByte with st := .seekStart }

/-- BODY_BYTE, R85. With `cnt` above 17 (unreachable, R22) there is no register to write (log 4). -/
def execBodyByte (x : Byte) (s : State) : Host.Outcome State Fault Refusal :=
  if h : s.cnt.toNat < 18 then
    let stored := { s.takeByte with buf := s.buf.set s.cnt.toNat x h }
    if s.cnt = 17 then .next { stored with cnt := 0, st := .readChecksum }
    else .next { stored with cnt := s.cnt + 1 }
  else .fault .bodyIndexOutOfRange

/-- CK_LO, R86. -/
def execCkLo (x : Byte) (s : State) : Host.Outcome State Fault Refusal :=
  .next { s.takeByte with cklo := x, cnt := 1 }

/-- CK_HI, R87: the commit the comparison selects and the return to SEEK_START are one step (R45). With `blk` above 89
(unreachable, R24) the table has no such angle (log 5). -/
def execCkHi (x : Byte) (s : State) : Host.Outcome State Fault Refusal :=
  if s.blk.toNat < Config.nBlocks then
    let committed := if checksumMatches s.blk s.buf s.cklo x then s.consume.commitOk else s.consume.commitBad
    .next { committed with cnt := 0, st := .seekStart }
  else .fault .angleOutOfTable

/-- HALTED_BYTE, R145: the byte stays at the source. -/
def execHaltedByte (_x : Byte) (s : State) : Host.Outcome State Fault Refusal :=
  .next s.noEffect

end Sys2Proof.Machine
end

