-- ==== Sys2Proof/Machine/Ports.lean ====
section
/-! DEFINITION. The PORT operations, the consumer reads (20_memory.md R46, R47). They change no state of the block;
what they return stands in the outputs (log 8). -/

namespace Sys2Proof.Machine

/-- RD_SLOT, R46: the slot word of R31 on `rd_data`. -/
def execRdSlot (addr : ReadAddr) (s : State) : Host.Outcome State Fault Refusal :=
  .next { s with out := { s.out with rdData := [slotWord (s.tbl.read addr)] } }

/-- RD_STATUS, R47: `(STATUS, SPEED, ERRCNT)`. -/
def execRdStatus (s : State) : Host.Outcome State Fault Refusal :=
  .next { s with
    out := { s.out with status := statusWord s.st s.speedValid, speed := s.speedRaw, errcnt := s.errCnt } }

end Sys2Proof.Machine
end

