-- ==== Sys2Proof/Machine/Dispatch.lean ====
section
/-! DEFINITION. One arm per operation (43_control.md R141). -/

namespace Sys2Proof.Machine

def exec (i : Instr) (s : State) : Host.Outcome State Fault Refusal :=
  match i with
  -- BYTE rows
  | .seekMarker x => Sys2Proof.Machine.execSeekMarker x s
  | .seekDiscard x => Sys2Proof.Machine.execSeekDiscard x s
  | .idxAccept x => Sys2Proof.Machine.execIdxAccept x s
  | .idxRemark x => Sys2Proof.Machine.execIdxRemark x s
  | .idxDiscard x => Sys2Proof.Machine.execIdxDiscard x s
  | .bodyByte x => Sys2Proof.Machine.execBodyByte x s
  | .ckLo x => Sys2Proof.Machine.execCkLo x s
  | .ckHi x => Sys2Proof.Machine.execCkHi x s
  | .haltedByte x => Sys2Proof.Machine.execHaltedByte x s
  -- CTRL rows
  | .reset => Sys2Proof.Machine.execReset s
  | .srcErr => Sys2Proof.Machine.execSrcErr s
  | .stop => Sys2Proof.Machine.execStop s
  | .idle => Sys2Proof.Machine.execIdle s
  -- PORT rows
  | .rdSlot addr => Sys2Proof.Machine.execRdSlot addr s
  | .rdStatus => Sys2Proof.Machine.execRdStatus s

end Sys2Proof.Machine
end

