-- ==== Sys2Proof/Machine/Step.lean ====
section
/-! DEFINITION. One step (43_control.md R140, R141): the input of the step is found, decoded in the framing state, and
its operation run. -/

namespace Sys2Proof.Machine

/-- `Step(s, ev)` of R141, with the event taken from the model's own fields (log 1). -/
def step (s : State) : Host.Outcome State Fault Refusal :=
  match decode s.st s.cnt s.inputWord with
  | .ok i => exec i s.beginStep
  | .error e => .fault (decodeFault e)

/-- A word of `decodeTableWord` placed so that the very next step decodes it (log 9). -/
def State.withFetchWord (s : State) (nbits w : Nat) : State := s.placeWord nbits w

end Sys2Proof.Machine
end

