-- ==== Sys2Proof/Safety.lean ====
section
/-! DEFINITION. The terms claims use: the states the spec calls reachable (10_state.md R21, R22, R24, 42_decode_commit.md
R124), the part of the state the framing depends on (20_memory.md R53) and what consumers see of it (R31), and steps in
which only the byte source acts. -/

namespace Sys2Proof.Machine

/-- R124: the legal contents of a slot. -/
def Slot.legal (v : Slot) : Bool :=
  v == Slot.empty || (v.filled && decide (v.dist.toNat ≤ 0x3FFF)) || v == { filled := true, dist := 0x8000, qual := 0 }

/-- R21: codes 6 and 7 of `st` are unreachable. -/
def isNamed : Framing → Bool
  | .seekStart | .readIndex | .readPacket | .readChecksum | .fault | .stopped => true
  | .unused6 | .unused7 => false

/-- What the rules say of every reachable state: `st` is named (R21), `cnt` is in its range (R22), `blk` in 0..89
(R24), the table in canonical form (R40), every listed slot legal (R124), no speed held before the first valid
packet (R29). -/
structure State.Inv (s : State) : Prop where
  st_named    : isNamed s.st = true
  cnt_range   : counterInRange s.st s.cnt = true
  blk_range   : s.blk.toNat ≤ 89
  tbl_wf      : s.tbl.wf
  slots_legal : ∀ p ∈ s.tbl, p.2.legal = true
  speed_held  : s.speedValid = false → s.speedRaw = 0

/-- An entry in which no control pin is asserted and the source may
offer its byte. -/
def Input.plainByte : Input → Bool
  | .cycle p => !p.rst && !p.srcErr && !p.stop && p.inValid
  | .readSlot _ => false
  | .readStatus => false

/-- A cycle with neither `rst` nor `src_err` nor `stop`: a byte or an idle step (R144). -/
def Input.noControl : Input → Bool
  | .cycle p => !p.rst && !p.srcErr && !p.stop
  | .readSlot _ => true
  | .readStatus => true

/-- In each of the next `n` steps the byte source offers its next byte and no control pin is asserted. -/
def State.quietFor (s : State) (n : Nat) : Bool := (s.inputs.take n).all Input.plainByte

/-- No control pin is asserted in any step scheduled. -/
def State.noControl (s : State) : Bool := s.inputs.all Input.noControl

/-- `n` steps, stopping at the first fault or refusal. -/
def runSteps : Nat → State → Host.Outcome State Fault Refusal
  | 0, s => .next s
  | n + 1, s =>
    match step s with
    | .next t => runSteps n t
    | .fault r => .fault r
    | .refused r => .refused r

/-- The published state (R31) is the same: table, speed and counter. -/
def State.samePublished (s t : State) : Prop :=
  t.tbl = s.tbl ∧ t.speedRaw = s.speedRaw ∧ t.speedValid = s.speedValid ∧ t.errCnt = s.errCnt

/-- Two states agree on all the framing reads (R53): the framing registers, the source and what is scheduled. -/
def State.sameFraming (s t : State) : Prop :=
  t.st = s.st ∧ t.blk = s.blk ∧ t.cnt = s.cnt ∧ t.buf = s.buf ∧ t.cklo = s.cklo ∧ t.source = s.source ∧
    t.inputs = s.inputs

end Sys2Proof.Machine
end

