-- ==== Sys2Proof/Certificates/Slice0/Obligations.lean ====
section
/-! DEFINITION. The statements for the provers, from the numbered rules of spec/. Results are written out as the
rules give them, so that a result equation is also the frame: what it does not name is unchanged. -/

open Sys2Proof Sys2Proof.Machine

namespace Sys2Proof.Claims

/-- After a byte operation that consumes its byte and emits `NONE` (R10): the byte is gone from the source, nothing else
changes but the outputs. -/
def byteTaken (s : State) : State :=
  { s with source := s.source.tail, out := { s.out with consumed := true, evt := .none, evtBlk := 0 } }

/-- After a step that consumes nothing and emits `NONE`: nothing changes but the outputs. -/
def nothingDone (s : State) : State :=
  { s with out := { s.out with consumed := false, evt := .none, evtBlk := 0 } }

/-- Read address `a` is angle `blk*4 + k` (R119). -/
def atAngle (a : ReadAddr) (blk : BitVec 7) (k : Nat) : Prop := a.toNat = blk.toNat * 4 + k

/-- Sample group `k` of the body decodes to this slot (R115, R116, R117, R120), in numbers. -/
def holdsSample (v : Slot) (buf : Vector Byte 18) (k : Fin 4) : Prop :=
  v.filled = true ∧
    v.dist.toNat = buf[2 + 4 * k.val].toNat + 256 * (buf[3 + 4 * k.val].toNat % 64) ∧
    v.qual.toNat = buf[4 + 4 * k.val].toNat + 256 * buf[5 + 4 * k.val].toNat

/-- The error sentinel (R122). -/
def errorSlot : Slot := { filled := true, dist := 0x8000, qual := 0 }

/-- What a valid packet publishes (R120): its four samples and its speed, and nothing else. -/
def publishesPacket (s t : State) (blk : BitVec 7) (body : Vector Byte 18) : Prop :=
  (∀ (k : Fin 4) (a : ReadAddr), atAngle a blk k → holdsSample (t.tbl.read a) body k) ∧
    (∀ a : ReadAddr, (∀ k : Fin 4, ¬ atAngle a blk k) → t.tbl.read a = s.tbl.read a) ∧
    t.speedRaw.toNat = body[0].toNat + 256 * body[1].toNat ∧ t.speedValid = true ∧ t.errCnt = s.errCnt

/-- What a failed packet publishes (R121): four sentinels and the counter, and nothing else. -/
def publishesError (s t : State) (blk : BitVec 7) : Prop :=
  (∀ (k : Fin 4) (a : ReadAddr), atAngle a blk k → t.tbl.read a = errorSlot) ∧
    (∀ a : ReadAddr, (∀ k : Fin 4, ¬ atAngle a blk k) → t.tbl.read a = s.tbl.read a) ∧
    t.errCnt.toNat = (s.errCnt.toNat + 1) % 2 ^ 32 ∧ t.speedRaw = s.speedRaw ∧ t.speedValid = s.speedValid

/-- The accumulator as a register of `n` bits (R102, R105). -/
def foldRegister (n : Nat) (acc : BitVec n) : List Byte → BitVec n
  | lo :: hi :: rest => foldRegister n ((acc <<< 1) + BitVec.ofNat n (le16 lo hi).toNat) rest
  | [_] => acc
  | [] => acc

/-- The pins of a step: those of its cycle; a consumer read outside a cycle drives none (log 8). -/
def pinsSeen : Input → Pins
  | .cycle p => p
  | .readSlot _ => { rst := false, srcErr := false, stop := false, inValid := false, rdAddr := [] }
  | .readStatus => { rst := false, srcErr := false, stop := false, inValid := false, rdAddr := [] }

/-- One row of the write matrix of R33. -/
structure WriteRow where
  st    : Bool
  blk   : Bool
  cnt   : Bool
  buf   : Bool
  cklo  : Bool
  tbl   : Bool
  speed : Bool
  err   : Bool

/-- The write matrix of R33; CK_HI's two rows together. -/
def writeMatrix : Instr → WriteRow
  | .seekMarker _  => ⟨true, false, false, false, false, false, false, false⟩
  | .seekDiscard _ => ⟨false, false, false, false, false, false, false, false⟩
  | .idxAccept _   => ⟨true, true, true, false, false, false, false, false⟩
  | .idxRemark _   => ⟨false, false, false, false, false, false, false, false⟩
  | .idxDiscard _  => ⟨true, false, false, false, false, false, false, false⟩
  | .bodyByte _    => ⟨true, false, true, true, false, false, false, false⟩
  | .ckLo _        => ⟨false, false, true, false, true, false, false, false⟩
  | .ckHi _        => ⟨true, false, true, false, false, true, true, true⟩
  | .haltedByte _  => ⟨false, false, false, false, false, false, false, false⟩
  | .reset         => ⟨true, true, true, true, true, true, true, true⟩
  | .srcErr        => ⟨true, false, true, false, false, false, false, false⟩
  | .stop          => ⟨true, false, true, false, false, false, false, false⟩
  | .idle          => ⟨false, false, false, false, false, false, false, false⟩
  | .rdSlot _      => ⟨false, false, false, false, false, false, false, false⟩
  | .rdStatus      => ⟨false, false, false, false, false, false, false, false⟩

end Sys2Proof.Claims

open Sys2Proof.Claims

/-! ### The byte operations -/

/-- R80. -/
def Obligations.SeekMarkerGoesToReadIndex : Prop :=
  (∀ cnt, decode .seekStart cnt (.cycle 0b0001 0xFA) = .ok (.seekMarker 0xFA)) ∧
    ∀ (x : Byte) (s : State), exec (.seekMarker x) s = .next { byteTaken s with st := .readIndex }

/-- R81. -/
def Obligations.SeekDiscardDropsByte : Prop :=
  (∀ cnt x, x ≠ 0xFA → decode .seekStart cnt (.cycle 0b0001 x) = .ok (.seekDiscard x)) ∧
    ∀ (x : Byte) (s : State), exec (.seekDiscard x) s = .next (byteTaken s)

/-- R82, R63. -/
def Obligations.IdxAcceptTakesBlock : Prop :=
  ∀ x : Byte, 0xA0 ≤ x.toNat → x.toNat ≤ 0xF9 →
    (∀ cnt, decode .readIndex cnt (.cycle 0b0001 x) = .ok (.idxAccept x)) ∧
      ∀ s : State, ∃ b : BitVec 7, b.toNat = x.toNat - 0xA0 ∧ b.toNat ≤ 89 ∧
        exec (.idxAccept x) s = .next { byteTaken s with blk := b, cnt := 0, st := .readPacket }

/-- R83. -/
def Obligations.IdxRemarkStays : Prop :=
  (∀ cnt, decode .readIndex cnt (.cycle 0b0001 0xFA) = .ok (.idxRemark 0xFA)) ∧
    ∀ (x : Byte) (s : State), exec (.idxRemark x) s = .next (byteTaken s)

/-- R84. -/
def Obligations.IdxDiscardSeeksAgain : Prop :=
  (∀ cnt (x : Byte), x.toNat ≤ 0x9F ∨ 0xFB ≤ x.toNat →
      decode .readIndex cnt (.cycle 0b0001 x) = .ok (.idxDiscard x)) ∧
    ∀ (x : Byte) (s : State), exec (.idxDiscard x) s = .next { byteTaken s with st := .seekStart }

/-- R85. -/
def Obligations.BodyByteStoresAndCounts : Prop :=
  (∀ cnt x, decode .readPacket cnt (.cycle 0b0001 x) = .ok (.bodyByte x)) ∧
    ∀ (x : Byte) (s : State) (h : s.cnt.toNat < 18),
      exec (.bodyByte x) s = .next
        { byteTaken s with
          buf := s.buf.set s.cnt.toNat x h
          cnt := if s.cnt = 17 then 0 else s.cnt + 1
          st := if s.cnt = 17 then .readChecksum else s.st }

/-- R86. -/
def Obligations.CkLoKeepsLowByte : Prop :=
  (∀ x, decode .readChecksum 0 (.cycle 0b0001 x) = .ok (.ckLo x)) ∧
    ∀ (x : Byte) (s : State), exec (.ckLo x) s = .next { byteTaken s with cklo := x, cnt := 1 }

/-- R87 with R104: CK_HI commits by the comparison and returns to SEEK_START whichever way it goes. -/
def Obligations.CkHiCommitsByComparison : Prop :=
  (∀ x, decode .readChecksum 1 (.cycle 0b0001 x) = .ok (.ckHi x)) ∧
    ∀ (x : Byte) (s : State), s.blk.toNat ≤ 89 →
      ∃ t : State, exec (.ckHi x) s = .next t ∧
        t.st = .seekStart ∧ t.cnt = 0 ∧ t.source = s.source.tail ∧ t.out.consumed = true ∧ t.out.evtBlk = s.blk ∧
        (((checksum (checksumBytes s.blk s.buf)).setWidth 16 = le16 s.cklo x ∧ t.out.evt = .pktOk ∧
            publishesPacket s t s.blk s.buf) ∨
          ((checksum (checksumBytes s.blk s.buf)).setWidth 16 ≠ le16 s.cklo x ∧ t.out.evt = .pktBad ∧
            publishesError s t s.blk))

/-- R120, with the frame: every register not named is unchanged, and every slot outside the four angles. -/
def Obligations.CommitOkWritesSamplesAndSpeed : Prop :=
  ∀ (x : Byte) (s : State), s.blk.toNat ≤ 89 →
    (checksum (checksumBytes s.blk s.buf)).toNat = s.cklo.toNat + 256 * x.toNat →
    ∃ t : State, exec (.ckHi x) s = .next t ∧ publishesPacket s t s.blk s.buf ∧
      t = { s with
        st := .seekStart
        cnt := 0
        source := s.source.tail
        tbl := t.tbl
        speedRaw := t.speedRaw
        speedValid := true
        out := { s.out with consumed := true, evt := .pktOk, evtBlk := s.blk } }

/-- R121, with the frame. -/
def Obligations.CommitBadWritesSentinelsAndCounts : Prop :=
  ∀ (x : Byte) (s : State), s.blk.toNat ≤ 89 →
    (checksum (checksumBytes s.blk s.buf)).toNat ≠ s.cklo.toNat + 256 * x.toNat →
    ∃ t : State, exec (.ckHi x) s = .next t ∧ publishesError s t s.blk ∧
      t = { s with
        st := .seekStart
        cnt := 0
        source := s.source.tail
        tbl := t.tbl
        errCnt := s.errCnt + 1
        out := { s.out with consumed := true, evt := .pktBad, evtBlk := s.blk } }

/-- R145. -/
def Obligations.HaltedByteIsHeld : Prop :=
  (∀ st cnt x, st = .fault ∨ st = .stopped → decode st cnt (.cycle 0b0001 x) = .ok (.haltedByte x)) ∧
    (∀ st p, st = .fault ∨ st = .stopped → inReady st p = false) ∧
    ∀ (x : Byte) (s : State), exec (.haltedByte x) s = .next (nothingDone s)

/-! ### The control operations -/

/-- R180. -/
def Obligations.ResetRestoresEveryRegister : Prop :=
  (∀ st cnt x, decode st cnt (.cycle 0b1000 x) = .ok .reset) ∧
    ∀ s : State, ∃ t : State, exec .reset s = .next t ∧
      t.st = .seekStart ∧ t.blk = 0 ∧ t.cnt = 0 ∧ (∀ k : Fin 18, t.buf[k] = 0) ∧ t.cklo = 0 ∧
      (∀ a : ReadAddr, t.tbl.read a = { filled := false, dist := 0, qual := 0 }) ∧
      t.speedRaw = 0 ∧ t.speedValid = false ∧ t.errCnt = 0 ∧
      t.source = s.source ∧ t.inputs = s.inputs ∧
      t.out = { s.out with consumed := false, evt := .none, evtBlk := 0 }

/-- R142: entering FAULT from the four running states; nothing in FAULT and STOPPED. -/
def Obligations.SrcErrEntersFault : Prop :=
  (∀ st cnt x, decode st cnt (.cycle 0b0100 x) = .ok .srcErr) ∧
    (∀ s : State, s.st = .seekStart ∨ s.st = .readIndex ∨ s.st = .readPacket ∨ s.st = .readChecksum →
      exec .srcErr s = .next
        { s with st := .fault, cnt := 0, out := { s.out with consumed := false, evt := .srcFault, evtBlk := 0 } }) ∧
    ∀ s : State, s.st = .fault ∨ s.st = .stopped → exec .srcErr s = .next (nothingDone s)

/-- R143: entering STOPPED from the four running states; nothing in FAULT and STOPPED. -/
def Obligations.StopEntersStopped : Prop :=
  (∀ st cnt x, decode st cnt (.cycle 0b0010 x) = .ok .stop) ∧
    (∀ s : State, s.st = .seekStart ∨ s.st = .readIndex ∨ s.st = .readPacket ∨ s.st = .readChecksum →
      exec .stop s = .next
        { s with st := .stopped, cnt := 0, out := { s.out with consumed := false, evt := .stopAck, evtBlk := 0 } }) ∧
    ∀ s : State, s.st = .fault ∨ s.st = .stopped → exec .stop s = .next (nothingDone s)

/-- R144. -/
def Obligations.IdleChangesNothing : Prop :=
  (∀ st cnt x, decode st cnt (.cycle 0b0000 x) = .ok .idle) ∧
    ∀ s : State, exec .idle s = .next (nothingDone s)

/-! ### The consumer reads -/

/-- R46 with the layout SLOT(a) of R31: the slot, and the empty slot at 360..511; nothing but the read port changes. -/
def Obligations.RdSlotAnswersSlot : Prop :=
  ∀ (a : ReadAddr) (s : State), ∃ w : SlotWord,
    exec (.rdSlot a) s = .next { s with out := { s.out with rdData := [w] } } ∧
      (a.toNat ≤ 359 →
        w.getLsbD 32 = (s.tbl.lookup a.toNat).filled ∧ w.extractLsb' 16 16 = (s.tbl.lookup a.toNat).qual ∧
          w.extractLsb' 0 16 = (s.tbl.lookup a.toNat).dist) ∧
      (359 < a.toNat → w = 0)

/-- R47 with the layout of R31 and the numbers of R21: STATUS, SPEED and ERRCNT, the speed in rpm being SPEED / 64;
nothing but those ports changes. -/
def Obligations.RdStatusAnswersRegisters : Prop :=
  ∀ s : State, ∃ w : BitVec 8,
    exec .rdStatus s = .next { s with out := { s.out with status := w, speed := s.speedRaw, errcnt := s.errCnt } } ∧
      w.extractLsb' 0 3 = s.st.code ∧
      (s.st = .seekStart → w.extractLsb' 0 3 = 0) ∧ (s.st = .readIndex → w.extractLsb' 0 3 = 1) ∧
      (s.st = .readPacket → w.extractLsb' 0 3 = 2) ∧ (s.st = .readChecksum → w.extractLsb' 0 3 = 3) ∧
      (s.st = .fault → w.extractLsb' 0 3 = 4) ∧ (s.st = .stopped → w.extractLsb' 0 3 = 5) ∧
      w.getLsbD 3 = s.speedValid ∧ w.extractLsb' 4 4 = 0 ∧
      rpm s.speedRaw = (s.speedRaw.toNat : ℚ) / 64

/-! ### Stops in unreachable states -/

/-- The model's choice, log 3, 4 and 5: where no rule says what happens, the model stops by name. -/
def Obligations.UnreachableStatesStop : Prop :=
  (∀ (x : Byte) (s : State), 18 ≤ s.cnt.toNat → exec (.bodyByte x) s = .fault .bodyIndexOutOfRange) ∧
    (∀ (x : Byte) (s : State), 90 ≤ s.blk.toNat → exec (.ckHi x) s = .fault .angleOutOfTable) ∧
    (∀ s : State, s.st = .unused6 ∨ s.st = .unused7 →
      exec .srcErr s = .fault .unusedFramingState ∧ exec .stop s = .fault .unusedFramingState) ∧
    ∀ (s : State) (p : Pins), s.st = .unused6 ∨ s.st = .unused7 → s.input = .cycle p → p.rst = false →
      p.srcErr = false → p.stop = false → p.inValid = true → s.source ≠ [] → step s = .fault .unusedFramingState

/-! ### The checksum -/

/-- R109. -/
def Obligations.ChecksumCoversMarkerIndexBody : Prop :=
  ∀ (blk : BitVec 7) (buf : Vector Byte 18), blk.toNat ≤ 89 →
    (checksumBytes blk buf)[0] = 0xFA ∧ (checksumBytes blk buf)[1].toNat = blk.toNat + 0xA0 ∧
      ∀ k : Fin 18, (checksumBytes blk buf)[k.val + 2] = buf[k]

/-- R100, R101, R103: the fold as a sum over the ten words, and the one reduction with the bound of its sum. -/
def Obligations.ChecksumClosedForm : Prop :=
  ∀ d : Vector Byte 20,
    let acc := ∑ t : Fin 10, (d[2 * t.val].toNat + 256 * d[2 * t.val + 1].toNat) * 2 ^ (9 - t.val)
    (checksum d).toNat = (acc % 2 ^ 15 + acc / 2 ^ 15) % 2 ^ 15 ∧ acc / 2 ^ 15 < 2 ^ 11 ∧
      acc % 2 ^ 15 + acc / 2 ^ 15 < 0x7FFF + 0x7FF

/-- R102: the accumulator in closed form, its bound, and that a fold register of 26 bits or more gives it exactly. -/
def Obligations.FoldRegisterOf26BitsSuffices : Prop :=
  ∀ d : Vector Byte 20,
    foldWords 0 d.toList = ∑ t : Fin 10, (d[2 * t.val].toNat + 256 * d[2 * t.val + 1].toNat) * 2 ^ (9 - t.val) ∧
      foldWords 0 d.toList ≤ 0x3FEFC01 ∧
      ∀ n : Nat, 26 ≤ n → (foldRegister n 0 d.toList).toNat = foldWords 0 d.toList

/-- R106, R66: a second checksum byte of 0x80 or more never matches and always fails the packet. -/
def Obligations.HighChecksumByteNeverMatches : Prop :=
  (∀ d : Vector Byte 20, (checksum d).toNat ≤ 0x7FFF) ∧
    ∀ (x : Byte) (s : State), 0x80 ≤ x.toNat → s.blk.toNat ≤ 89 →
      ∃ t : State, exec (.ckHi x) s = .next t ∧ t.out.evt = .pktBad ∧ publishesError s t s.blk

/-- R107: (a) one changed byte at offsets 1..19 always changes the checksum, so a packet that matched fails with another
body byte or another index byte; (b) it fails when a checksum byte changes; (c) two changed bytes can go undetected: one
more in a word, two less in the next. -/
def Obligations.SingleByteDamageIsDetected : Prop :=
  (∀ (d : Vector Byte 20) (k : Fin 20) (b : Byte), 1 ≤ k.val → b ≠ d[k] → checksum (d.set k.val b) ≠ checksum d) ∧
    (∀ (blk : BitVec 7) (buf : Vector Byte 18) (lo hi : Byte), checksumMatches blk buf lo hi = true →
      (∀ (k : Fin 18) (b : Byte), b ≠ buf[k] → checksumMatches blk (buf.set k.val b) lo hi = false) ∧
        ∀ blk' : BitVec 7, blk' ≠ blk → checksumMatches blk' buf lo hi = false) ∧
    (∀ (blk : BitVec 7) (buf : Vector Byte 18) (lo hi lo' hi' : Byte), checksumMatches blk buf lo hi = true →
      lo' ≠ lo ∨ hi' ≠ hi → checksumMatches blk buf lo' hi' = false) ∧
    (∀ (acc : Nat) (a b c d a' b' c' d' : Byte) (rest : List Byte), (le16 a' b').toNat = (le16 a b).toNat + 1 →
      (le16 c' d').toNat + 2 = (le16 c d).toNat →
      foldWords acc (a' :: b' :: c' :: d' :: rest) = foldWords acc (a :: b :: c :: d :: rest)) ∧
    checksum #v[0xFA, 0xA0, 0, 0, 2, 0, 0, 0, 0, 0, 0, 0, 0, 0, 0, 0, 0, 0, 0, 0] = 0x7783 ∧
    checksum #v[0xFA, 0xA0, 1, 0, 0, 0, 0, 0, 0, 0, 0, 0, 0, 0, 0, 0, 0, 0, 0, 0] = 0x7783

/-! ### Fields, angles, speed, packets -/

/-- R64, R115, R116. -/
def Obligations.UnpackFormulas : Prop :=
  ∀ g : Group, (unpackDistance g).toNat = g.b0.toNat + 256 * (g.b1.toNat % 64) ∧
    (unpackDistance g).toNat ≤ 0x3FFF ∧ (unpackQuality g).toNat = g.b2.toNat + 256 * g.b3.toNat

/-- R119. -/
def Obligations.AnglesStayInTable : Prop :=
  (∀ (blk : BitVec 7) (k : Fin 4), blk.toNat ≤ 89 → angle blk k = blk.toNat * 4 + k ∧ angle blk k ≤ 359) ∧
    ∀ (blk blk' : BitVec 7) (k k' : Fin 4), angle blk k = angle blk' k' → blk = blk' ∧ k = k'

/-- R65, R118. -/
def Obligations.SpeedIsRawOver64 : Prop :=
  (∀ buf : Vector Byte 18, (speedField buf).toNat = buf[0].toNat + 256 * buf[1].toNat) ∧
    ∀ raw : BitVec 16, rpm raw * 64 = raw.toNat ∧ 0 ≤ rpm raw ∧ rpm raw ≤ 1023.984375

/-- R71 with the offsets of R61. -/
def Obligations.PacketPseudoOperationExpands : Prop :=
  (∀ (blk : BitVec 7) (speed : BitVec 16) (g0 g1 g2 g3 : Group) (cs : BitVec 16),
    ∃ lo hi slo shi : Byte, le16 lo hi = cs ∧ le16 slo shi = speed ∧
      packetForced blk speed g0 g1 g2 g3 cs =
        [0xFA, blk.setWidth 8 + 0xA0, slo, shi, g0.b0, g0.b1, g0.b2, g0.b3, g1.b0, g1.b1, g1.b2, g1.b3,
          g2.b0, g2.b1, g2.b2, g2.b3, g3.b0, g3.b1, g3.b2, g3.b3, lo, hi]) ∧
    (∀ (blk : BitVec 7) (speed : BitVec 16) (g0 g1 g2 g3 : Group),
      ∃ (d : Vector Byte 20) (lo hi : Byte), packet blk speed g0 g1 g2 g3 = d.toList ++ [lo, hi] ∧
        d.toList = (packetForced blk speed g0 g1 g2 g3 0).take 20 ∧ (checksum d).setWidth 16 = le16 lo hi) ∧
    packet 0 0 ⟨0, 0, 0, 0⟩ ⟨0, 0, 0, 0⟩ ⟨0, 0, 0, 0⟩ ⟨0, 0, 0, 0⟩ =
      [0xFA, 0xA0] ++ List.replicate 18 0 ++ [0x83, 0x76]

/-! ### Decoding -/

/-- R67: the decode map, row by row, and the control events in every state. -/
def Obligations.DecodeMapRowByRow : Prop :=
  ∀ (cnt : BitVec 5) (x : Byte),
    (x = 0xFA → decode .seekStart cnt (.cycle 0b0001 x) = .ok (.seekMarker x)) ∧
      (x ≠ 0xFA → decode .seekStart cnt (.cycle 0b0001 x) = .ok (.seekDiscard x)) ∧
      (0xA0 ≤ x.toNat ∧ x.toNat ≤ 0xF9 → decode .readIndex cnt (.cycle 0b0001 x) = .ok (.idxAccept x)) ∧
      (x = 0xFA → decode .readIndex cnt (.cycle 0b0001 x) = .ok (.idxRemark x)) ∧
      (x.toNat ≤ 0x9F ∨ 0xFB ≤ x.toNat → decode .readIndex cnt (.cycle 0b0001 x) = .ok (.idxDiscard x)) ∧
      decode .readPacket cnt (.cycle 0b0001 x) = .ok (.bodyByte x) ∧
      (cnt = 0 → decode .readChecksum cnt (.cycle 0b0001 x) = .ok (.ckLo x)) ∧
      (cnt = 1 → decode .readChecksum cnt (.cycle 0b0001 x) = .ok (.ckHi x)) ∧
      decode .fault cnt (.cycle 0b0001 x) = .ok (.haltedByte x) ∧
      decode .stopped cnt (.cycle 0b0001 x) = .ok (.haltedByte x) ∧
      ∀ st : Framing, decode st cnt (.cycle 0b1000 x) = .ok .reset ∧ decode st cnt (.cycle 0b0100 x) = .ok .srcErr ∧
        decode st cnt (.cycle 0b0010 x) = .ok .stop ∧ decode st cnt (.cycle 0b0000 x) = .ok .idle

/-- R68: the match and mask pairs are exactly the ranges, no two pairs of a class overlap, and the counts are as given. -/
def Obligations.MaskPairsAreTheRanges : Prop :=
  (∀ x : Byte,
    (inPairs indexPairs x = true ↔ 0xA0 ≤ x.toNat ∧ x.toNat ≤ 0xF9) ∧
      (inPairs markerPairs x = true ↔ x = 0xFA) ∧
      (inPairs neitherPairs x = true ↔ x.toNat ≤ 0x9F ∨ 0xFB ≤ x.toNat) ∧
      (inPairs notMarkerPairs x = true ↔ x ≠ 0xFA) ∧
      inPairs anyPairs x = true) ∧
    (∀ (x : Byte) c, c ∈ [indexPairs, markerPairs, neitherPairs, notMarkerPairs, anyPairs] →
      (c.filter fun p => x &&& p.2 == p.1).length ≤ 1) ∧
    ∀ c n, (c, n) ∈ [(indexPairs, 90), (markerPairs, 1), (neitherPairs, 165), (notMarkerPairs, 255), (anyPairs, 256)] →
      ((List.range 256).filter fun k => inPairs c (BitVec.ofNat 8 k)).length = n

/-- R72: for every control vector, every reachable `(st, cnt)` and every byte exactly one row matches, and the decoder
reads that row's operation. -/
def Obligations.ExactlyOneRowMatches : Prop :=
  ∀ (st : Framing) (cnt : BitVec 5) (v : ControlVector) (x : Byte), isNamed st = true →
    counterInRange st cnt = true →
    ∃ i : Instr, decode st cnt (.cycle v x) = .ok i ∧ matchingRows st cnt v x = [i.mnemonic]

/-- R166: the pins of a cycle form one event by priority; a byte offered in a cycle taken by a control pin is not
consumed and stays at the source. For a cycle whose in_valid has no byte behind it (log 13) see `EmptySourceIdles`. -/
def Obligations.PinsFormOneEventByPriority : Prop :=
  ∀ (s : State) (p : Pins), s.input = .cycle p →
    (p.rst = true → decode s.st s.cnt s.inputWord = .ok .reset) ∧
      (p.rst = false → p.srcErr = true → decode s.st s.cnt s.inputWord = .ok .srcErr) ∧
      (p.rst = false → p.srcErr = false → p.stop = true → decode s.st s.cnt s.inputWord = .ok .stop) ∧
      (p.rst = false → p.srcErr = false → p.stop = false → p.inValid = true → ∀ x rest, s.source = x :: rest →
        decode s.st s.cnt s.inputWord = decode s.st s.cnt (.cycle 0b0001 x)) ∧
      (p.rst = false → p.srcErr = false → p.stop = false → p.inValid = false →
        decode s.st s.cnt s.inputWord = .ok .idle) ∧
      ∀ t : State, step s = .next t → p.rst = true ∨ p.srcErr = true ∨ p.stop = true →
        t.source = s.source ∧ t.out.inReady = false ∧ t.out.consumed = false

/-- The model's reading of R140, log 13: in_valid scheduled with nothing at the source is Idle, which changes nothing. -/
def Obligations.EmptySourceIdles : Prop :=
  ∀ (s : State) (p : Pins), s.input = .cycle p → p.rst = false → p.srcErr = false → p.stop = false → s.source = [] →
    decode s.st s.cnt s.inputWord = .ok .idle ∧
      ∃ t : State, step s = .next t ∧ t.out.consumed = false ∧ t.out.evt = .none ∧ t.out.evtBlk = 0 ∧
        t = { s with inputs := s.inputs.tail, out := t.out }

/-- Every operation's word, decoded where it can be selected, gives it back; the same of its one long word (the
model's own numbering, log 9). -/
def Obligations.DecodeOfEncodeIsIdentity : Prop :=
  ∀ (i : Instr) (st : Framing) (cnt : BitVec 5), i.wellFormed = true → i.selectedIn st cnt = true →
    decode st cnt (encode i) = .ok i ∧
      decodeTableWord 24 (Selection.toBits { st := st, cnt := cnt, word := encode i }) = some i

/-- The decoder yields only well-formed operations, in the state that selects them, and a BYTE or PORT word is the one
word of its operation there. -/
def Obligations.DecodedOperationsAreWellFormed : Prop :=
  ∀ (i : Instr) (st : Framing) (cnt : BitVec 5) (w : InputWord), decode st cnt w = .ok i →
    i.wellFormed = true ∧ i.selectedIn st cnt = true ∧ (i.format ≠ .ctrl → w = encode i)

/-- Words written out from R67, R72 and R166. -/
def Obligations.WordsDecodeToTheirOperations : Prop :=
  decode .seekStart 0 (.cycle 0b0001 0b11111010) = .ok (.seekMarker 0xFA) ∧
    decode .readIndex 0 (.cycle 0b0001 0b10100101) = .ok (.idxAccept 0xA5) ∧
    decode .readPacket 3 (.cycle 0b0001 0b11111010) = .ok (.bodyByte 0xFA) ∧
    decode .readChecksum 1 (.cycle 0b0001 0b00111111) = .ok (.ckHi 0x3F) ∧
    decode .stopped 0 (.cycle 0b0001 0b00000000) = .ok (.haltedByte 0) ∧
    decode .readPacket 9 (.cycle 0b1101 0b00000000) = .ok .reset ∧
    decode .readPacket 9 (.cycle 0b0111 0b00000000) = .ok .srcErr ∧
    decode .seekStart 0 (.cycle 0b0011 0b11111010) = .ok .stop ∧
    decode .seekStart 0 (.rdSlot 0b101100111) = .ok (.rdSlot 359)

/-! ### The step -/

/-- R140, R141: a step runs the decoded operation in the state with the input used up and the ports of R146 set, a
consumer read's step included. The model's choices in it: where the input stands (log 1), the ports of a read outside a
cycle (log 8), and that an input which names no operation, a byte in codes 6 and 7 of `st`, stops the step (log 3), where
R141 leaves a model free to call it a fault. -/
def Obligations.StepRunsDecodedOperation : Prop :=
  (∀ (s : State) (i : Instr), decode s.st s.cnt s.inputWord = .ok i →
      step s = exec i
        { s with
          inputs := s.inputs.tail
          out :=
            { inReady := inReady s.st (pinsSeen s.input), consumed := false, evt := .none, evtBlk := 0,
              rdData := (pinsSeen s.input).rdAddr.map fun a => slotWord (s.tbl.read a),
              status := statusWord s.st s.speedValid, speed := s.speedRaw, errcnt := s.errCnt } }) ∧
    ∀ (s : State) (e : DecodeError), decode s.st s.cnt s.inputWord = .error e → step s = .fault .unusedFramingState

/-- A word placed by `withFetchWord` is what the very next step decodes and runs (log 9). -/
def Obligations.PlacedWordRunsNext : Prop :=
  ∀ (s : State) (nbits w : Nat) (i : Instr), decodeTableWord nbits w = some i →
    step (s.withFetchWord nbits w) = exec i (s.withFetchWord nbits w).beginStep ∧
      (s.withFetchWord nbits w).beginStep.inputs = s.inputs ∧
      (s.withFetchWord nbits w).tbl = s.tbl ∧ (s.withFetchWord nbits w).buf = s.buf ∧
      (s.withFetchWord nbits w).blk = s.blk ∧ (s.withFetchWord nbits w).errCnt = s.errCnt ∧
      (i.format ≠ .byte → (s.withFetchWord nbits w).st = s.st ∧ (s.withFetchWord nbits w).cnt = s.cnt)

/-- R48: a read in the cycle of any step, a commit included, and the other ports, show the state before the step. -/
def Obligations.PortsShowStateBeforeStep : Prop :=
  ∀ (s t : State) (p : Pins), s.input = .cycle p → step s = .next t →
    t.out.rdData = (p.rdAddr.map fun a => slotWord (s.tbl.read a)) ∧
      t.out.status = statusWord s.st s.speedValid ∧ t.out.speed = s.speedRaw ∧ t.out.errcnt = s.errCnt

/-- R146: in_ready, and a byte is consumed exactly when it is offered and in_ready is 1. That in_valid offers a byte only
with one at the source is the model's reading of R140, log 13. -/
def Obligations.ByteConsumedExactlyWhenReady : Prop :=
  ∀ (s t : State) (p : Pins), s.input = .cycle p → step s = .next t →
    (t.out.inReady = true ↔ p.rst = false ∧ p.srcErr = false ∧ p.stop = false ∧
      (s.st = .seekStart ∨ s.st = .readIndex ∨ s.st = .readPacket ∨ s.st = .readChecksum)) ∧
    (t.out.consumed = true ↔ p.inValid = true ∧ s.source ≠ [] ∧ t.out.inReady = true) ∧
    t.source = (if t.out.consumed then s.source.tail else s.source)

/-! ### Whole-machine rules -/

/-- The reset state meets the invariant. -/
def Obligations.ResetMeetsInvariant : Prop := State.reset.Inv

/-- R21, R22, R24, R124: every step from a state that meets the invariant leads to one that does. -/
def Obligations.StepKeepsInvariant : Prop :=
  ∀ s t : State, s.Inv → step s = .next t → t.Inv

/-- R67, R69, R90: in a state that meets the invariant every step goes on, whatever the input. -/
def Obligations.StepNeverStopsUnderInvariant : Prop :=
  ∀ s : State, s.Inv → ∃ t : State, step s = .next t ∧ t.Inv

/-- R124: what a consumer can read of a slot, and how it tells the three apart. -/
def Obligations.ConsumersSeeLegalSlots : Prop :=
  ∀ (s : State) (a : ReadAddr), s.Inv →
    (s.tbl.read a = { filled := false, dist := 0, qual := 0 } ∨
      ((s.tbl.read a).filled = true ∧ (s.tbl.read a).dist.toNat ≤ 0x3FFF) ∨ s.tbl.read a = errorSlot) ∧
      ((s.tbl.read a).dist.getLsbD 15 = true ↔ s.tbl.read a = errorSlot) ∧
      ((s.tbl.read a).filled = false ↔ s.tbl.read a = { filled := false, dist := 0, qual := 0 })

/-- R33: the write matrix. An element whose column is blank for an operation is unchanged by it; CK_HI writes the speed
only in a good commit and the counter only in a bad one. -/
def Obligations.OperationsWriteOnlyTheirColumns : Prop :=
  ∀ (i : Instr) (s t : State), exec i s = .next t →
    ((writeMatrix i).st = false → t.st = s.st) ∧ ((writeMatrix i).blk = false → t.blk = s.blk) ∧
      ((writeMatrix i).cnt = false → t.cnt = s.cnt) ∧ ((writeMatrix i).buf = false → t.buf = s.buf) ∧
      ((writeMatrix i).cklo = false → t.cklo = s.cklo) ∧ ((writeMatrix i).tbl = false → t.tbl = s.tbl) ∧
      ((writeMatrix i).speed = false → t.speedRaw = s.speedRaw ∧ t.speedValid = s.speedValid) ∧
      ((writeMatrix i).err = false → t.errCnt = s.errCnt) ∧
      (∀ x, i = .ckHi x → (t.out.evt = .pktOk ∧ t.errCnt = s.errCnt) ∨
        (t.out.evt = .pktBad ∧ t.speedRaw = s.speedRaw ∧ t.speedValid = s.speedValid))

/-- R160: the numbers of the codes, and who emits which, with its angle-block. For the consumer reads, which emit nothing
themselves, see `ReadStepsReportNothing`. -/
def Obligations.ResultCodesAndTheirEmitters : Prop :=
  (Evt.code .none = 0 ∧ Evt.code .pktOk = 1 ∧ Evt.code .pktBad = 2 ∧ Evt.code .srcFault = 3 ∧ Evt.code .stopAck = 4) ∧
    ∀ (i : Instr) (s t : State), exec i s = .next t → i.format ≠ .port →
      (t.out.evt = .pktOk → (∃ x, i = .ckHi x) ∧ t.out.evtBlk = s.blk) ∧
        (t.out.evt = .pktBad → (∃ x, i = .ckHi x) ∧ t.out.evtBlk = s.blk) ∧
        (t.out.evt = .srcFault → i = .srcErr ∧ t.st = .fault ∧ t.out.evtBlk = 0) ∧
        (t.out.evt = .stopAck → i = .stop ∧ t.st = .stopped ∧ t.out.evtBlk = 0) ∧
        (t.out.evt = .none → t.out.evtBlk = 0)

/-- The model's step for a consumer read (log 8): in every state of the framing it goes on, emits NONE with 0, consumes
nothing and changes nothing of the block. -/
def Obligations.ReadStepsReportNothing : Prop :=
  ∀ s : State, (∃ a, s.input = .readSlot a) ∨ s.input = .readStatus →
    ∃ t : State, step s = .next t ∧ t.out.evt = .none ∧ t.out.evtBlk = 0 ∧ t.out.consumed = false ∧
      t = { s with inputs := s.inputs.tail, out := t.out }

/-- R187, R168, R169: in FAULT and STOPPED only `rst` changes anything: no byte is consumed, nothing is emitted, and the
published state keeps its values. -/
def Obligations.HaltIsLeftOnlyByReset : Prop :=
  ∀ s t : State, s.st = .fault ∨ s.st = .stopped → step s = .next t →
    (∃ p : Pins, s.input = .cycle p ∧ p.rst = true ∧ t.st = .seekStart) ∨
      (t.st = s.st ∧ s.samePublished t ∧ t.source = s.source ∧ t.out.consumed = false ∧ t.out.evt = .none)

/-- R53: two states that agree on what the framing reads, whatever their tables, speeds and counters, step alike. -/
def Obligations.FramingIgnoresPublishedState : Prop :=
  ∀ s t : State, s.sameFraming t →
    (∀ s' : State, step s = .next s' → ∃ t' : State, step t = .next t' ∧ s'.sameFraming t' ∧
      t'.out.consumed = s'.out.consumed ∧ t'.out.evt = s'.out.evt ∧ t'.out.evtBlk = s'.out.evtBlk) ∧
    ∀ f : Fault, step s = .fault f → step t = .fault f

/-- R125: the slots a commit writes, and which commit it is, do not depend on what the table held. -/
def Obligations.CommitIgnoresOldTable : Prop :=
  ∀ (x : Byte) (s t s' t' : State), s.blk = t.blk → s.buf = t.buf → s.cklo = t.cklo →
    exec (.ckHi x) s = .next s' → exec (.ckHi x) t = .next t' →
    s'.out.evt = t'.out.evt ∧ s'.out.evtBlk = t'.out.evtBlk ∧
      ∀ (k : Fin 4) (a : ReadAddr), atAngle a s.blk k → s'.tbl.read a = t'.tbl.read a

/-! ### Streams -/

/-- R88: without a marker in the stream the decoder stays in SEEK_START and publishes nothing, however many steps. -/
def Obligations.NoMarkerNoUpdate : Prop :=
  ∀ (n : Nat) (s : State), s.st = .seekStart → (∀ x ∈ s.source, x ≠ 0xFA) → s.noControl = true →
    ∃ t : State, runSteps n s = .next t ∧ t.st = .seekStart ∧ s.samePublished t

/-- R83, R70: a run of markers of any length keeps the decoder in READ_INDEX and changes nothing else. -/
def Obligations.MarkerRunStaysInReadIndex : Prop :=
  ∀ (n : Nat) (s : State) (rest : List Byte), s.st = .readIndex → s.source = List.replicate n 0xFA ++ rest →
    s.quietFor n = true →
    ∃ t : State, runSteps n s = .next t ∧ t.st = .readIndex ∧ t.source = rest ∧ t.cnt = s.cnt ∧ t.blk = s.blk ∧
      t.buf = s.buf ∧ t.cklo = s.cklo ∧ s.samePublished t

/-- R89: a packet of any block and body, with a checksum field of any value, is consumed whole in exactly 22 steps from
SEEK_START (21 from READ_INDEX after its marker), ends with the commit of its own block and leaves the decoder in
SEEK_START. -/
def Obligations.PacketIsFramedAndCommitted : Prop :=
  ∀ (s : State) (blk : BitVec 7) (body : Vector Byte 18) (cs : BitVec 16) (rest : List Byte) (n : Nat),
    blk.toNat ≤ 89 →
    (n = 22 ∧ s.st = .seekStart ∧ s.source = framePacket blk body cs ++ rest) ∨
      (n = 21 ∧ s.st = .readIndex ∧ s.source = (framePacket blk body cs).tail ++ rest) →
    s.quietFor n = true →
    ∃ t : State, runSteps n s = .next t ∧ t.st = .seekStart ∧ t.cnt = 0 ∧ t.source = rest ∧
      t.inputs = s.inputs.drop n ∧ t.blk = blk ∧ t.buf = body ∧ t.out.evtBlk = blk ∧
      (((checksum (checksumBytes blk body)).setWidth 16 = cs ∧ t.out.evt = .pktOk ∧ publishesPacket s t blk body) ∨
        ((checksum (checksumBytes blk body)).setWidth 16 ≠ cs ∧ t.out.evt = .pktBad ∧ publishesError s t blk))

/-- R90's first case with R107: a valid packet with one body byte replaced by another value commits bad and the decoder
is back in SEEK_START at the next packet's first byte. -/
def Obligations.DamagedPacketIsCaughtAndResynchronised : Prop :=
  ∀ (s : State) (blk : BitVec 7) (body : Vector Byte 18) (k : Fin 18) (b : Byte) (rest : List Byte),
    blk.toNat ≤ 89 → b ≠ body[k] → s.st = .seekStart →
    s.source =
      framePacket blk (body.set k.val b) ((checksum (checksumBytes blk body)).setWidth 16) ++ rest →
    s.quietFor 22 = true →
    ∃ t : State, runSteps 22 s = .next t ∧ t.st = .seekStart ∧ t.cnt = 0 ∧ t.source = rest ∧
      t.out.evt = .pktBad ∧ publishesError s t blk

/-- R90's second case: one byte `x` inserted anywhere after the index byte of a packet. The packet's 20 bytes end one byte
early in one commit of its own block, in 22 steps; whatever the byte left over is, the packet that follows is framed and
commits by its own checksum, in 23 steps more. -/
def Obligations.InsertedByteCostsOnePacket : Prop :=
  ∀ (s : State) (blk blk' : BitVec 7) (body body' : Vector Byte 18) (cs cs' : BitVec 16) (j : Nat) (x : Byte)
    (rest : List Byte),
    blk.toNat ≤ 89 → blk'.toNat ≤ 89 → 2 ≤ j → j ≤ 21 → s.st = .seekStart →
    s.source = (framePacket blk body cs).take j ++ x :: (framePacket blk body cs).drop j ++
      (framePacket blk' body' cs' ++ rest) →
    s.quietFor 45 = true →
    ∃ u t : State, runSteps 22 s = .next u ∧ u.st = .seekStart ∧ u.blk = blk ∧ u.out.evtBlk = blk ∧
      (u.out.evt = .pktOk ∨ u.out.evt = .pktBad) ∧
      runSteps 45 s = .next t ∧ t.st = .seekStart ∧ t.source = rest ∧ t.blk = blk' ∧ t.buf = body' ∧
      (((checksum (checksumBytes blk' body')).setWidth 16 = cs' ∧ t.out.evt = .pktOk ∧ publishesPacket u t blk' body') ∨
        ((checksum (checksumBytes blk' body')).setWidth 16 ≠ cs' ∧ t.out.evt = .pktBad ∧ publishesError u t blk'))

/-- R107 (a) at offset 1: a valid packet whose index byte was replaced by that of another block commits bad, and the
error goes to the block the damaged byte names. -/
def Obligations.DamagedIndexByteIsCaught : Prop :=
  ∀ (s : State) (blk blk' : BitVec 7) (body : Vector Byte 18) (rest : List Byte),
    blk'.toNat ≤ 89 → blk' ≠ blk → s.st = .seekStart →
    s.source = framePacket blk' body ((checksum (checksumBytes blk body)).setWidth 16) ++ rest →
    s.quietFor 22 = true →
    ∃ t : State, runSteps 22 s = .next t ∧ t.st = .seekStart ∧ t.source = rest ∧ t.out.evt = .pktBad ∧
      t.out.evtBlk = blk' ∧ publishesError s t blk'

/-- R23: from every packet state the decoder is back in SEEK_START after the bytes that are left of the packet, at most
20. -/
def Obligations.PacketStatesReturnWithin20Bytes : Prop :=
  ∀ (s : State) (n : Nat), s.Inv →
    (s.st = .readPacket ∧ n = 20 - s.cnt.toNat) ∨ (s.st = .readChecksum ∧ n = 2 - s.cnt.toNat) →
    n ≤ s.source.length → s.quietFor n = true →
    n ≤ 20 ∧ ∃ t : State, runSteps n s = .next t ∧ t.st = .seekStart ∧ t.source = s.source.drop n
end

