-- ==== Sys2Proof/Laws/State.lean ====
section
/-! SUPPORT. One lemma per field per update of the named operations over State (Machine/Ops.lean), so that no proof unfolds
a record update. -/

namespace Sys2Proof.Machine

/-! ### `emit` -/

@[simp] theorem emit_st (s : State) (e : Evt) (b : BitVec 7) : (s.emit e b).st = s.st := rfl
@[simp] theorem emit_blk (s : State) (e : Evt) (b : BitVec 7) : (s.emit e b).blk = s.blk := rfl
@[simp] theorem emit_cnt (s : State) (e : Evt) (b : BitVec 7) : (s.emit e b).cnt = s.cnt := rfl
@[simp] theorem emit_buf (s : State) (e : Evt) (b : BitVec 7) : (s.emit e b).buf = s.buf := rfl
@[simp] theorem emit_cklo (s : State) (e : Evt) (b : BitVec 7) : (s.emit e b).cklo = s.cklo := rfl
@[simp] theorem emit_tbl (s : State) (e : Evt) (b : BitVec 7) : (s.emit e b).tbl = s.tbl := rfl
@[simp] theorem emit_speedRaw (s : State) (e : Evt) (b : BitVec 7) : (s.emit e b).speedRaw = s.speedRaw := rfl
@[simp] theorem emit_speedValid (s : State) (e : Evt) (b : BitVec 7) : (s.emit e b).speedValid = s.speedValid := rfl
@[simp] theorem emit_errCnt (s : State) (e : Evt) (b : BitVec 7) : (s.emit e b).errCnt = s.errCnt := rfl
@[simp] theorem emit_source (s : State) (e : Evt) (b : BitVec 7) : (s.emit e b).source = s.source := rfl
@[simp] theorem emit_inputs (s : State) (e : Evt) (b : BitVec 7) : (s.emit e b).inputs = s.inputs := rfl
@[simp] theorem emit_out (s : State) (e : Evt) (b : BitVec 7) : (s.emit e b).out = { s.out with evt := e, evtBlk := b } := rfl

/-! ### `consume` -/

@[simp] theorem consume_st (s : State) : s.consume.st = s.st := rfl
@[simp] theorem consume_blk (s : State) : s.consume.blk = s.blk := rfl
@[simp] theorem consume_cnt (s : State) : s.consume.cnt = s.cnt := rfl
@[simp] theorem consume_buf (s : State) : s.consume.buf = s.buf := rfl
@[simp] theorem consume_cklo (s : State) : s.consume.cklo = s.cklo := rfl
@[simp] theorem consume_tbl (s : State) : s.consume.tbl = s.tbl := rfl
@[simp] theorem consume_speedRaw (s : State) : s.consume.speedRaw = s.speedRaw := rfl
@[simp] theorem consume_speedValid (s : State) : s.consume.speedValid = s.speedValid := rfl
@[simp] theorem consume_errCnt (s : State) : s.consume.errCnt = s.errCnt := rfl
@[simp] theorem consume_source (s : State) : s.consume.source = s.source.tail := rfl
@[simp] theorem consume_inputs (s : State) : s.consume.inputs = s.inputs := rfl
@[simp] theorem consume_out (s : State) : s.consume.out = { s.out with consumed := true } := rfl

/-! ### `hold` -/

@[simp] theorem hold_st (s : State) : s.hold.st = s.st := rfl
@[simp] theorem hold_blk (s : State) : s.hold.blk = s.blk := rfl
@[simp] theorem hold_cnt (s : State) : s.hold.cnt = s.cnt := rfl
@[simp] theorem hold_buf (s : State) : s.hold.buf = s.buf := rfl
@[simp] theorem hold_cklo (s : State) : s.hold.cklo = s.cklo := rfl
@[simp] theorem hold_tbl (s : State) : s.hold.tbl = s.tbl := rfl
@[simp] theorem hold_speedRaw (s : State) : s.hold.speedRaw = s.speedRaw := rfl
@[simp] theorem hold_speedValid (s : State) : s.hold.speedValid = s.speedValid := rfl
@[simp] theorem hold_errCnt (s : State) : s.hold.errCnt = s.errCnt := rfl
@[simp] theorem hold_source (s : State) : s.hold.source = s.source := rfl
@[simp] theorem hold_inputs (s : State) : s.hold.inputs = s.inputs := rfl
@[simp] theorem hold_out (s : State) : s.hold.out = { s.out with consumed := false } := rfl

/-! ### `takeByte` -/

@[simp] theorem takeByte_st (s : State) : s.takeByte.st = s.st := rfl
@[simp] theorem takeByte_blk (s : State) : s.takeByte.blk = s.blk := rfl
@[simp] theorem takeByte_cnt (s : State) : s.takeByte.cnt = s.cnt := rfl
@[simp] theorem takeByte_buf (s : State) : s.takeByte.buf = s.buf := rfl
@[simp] theorem takeByte_cklo (s : State) : s.takeByte.cklo = s.cklo := rfl
@[simp] theorem takeByte_tbl (s : State) : s.takeByte.tbl = s.tbl := rfl
@[simp] theorem takeByte_speedRaw (s : State) : s.takeByte.speedRaw = s.speedRaw := rfl
@[simp] theorem takeByte_speedValid (s : State) : s.takeByte.speedValid = s.speedValid := rfl
@[simp] theorem takeByte_errCnt (s : State) : s.takeByte.errCnt = s.errCnt := rfl
@[simp] theorem takeByte_source (s : State) : s.takeByte.source = s.source.tail := rfl
@[simp] theorem takeByte_inputs (s : State) : s.takeByte.inputs = s.inputs := rfl
@[simp] theorem takeByte_out (s : State) : s.takeByte.out = { s.out with consumed := true, evt := .none, evtBlk := 0 } := rfl

/-! ### `noEffect` -/

@[simp] theorem noEffect_st (s : State) : s.noEffect.st = s.st := rfl
@[simp] theorem noEffect_blk (s : State) : s.noEffect.blk = s.blk := rfl
@[simp] theorem noEffect_cnt (s : State) : s.noEffect.cnt = s.cnt := rfl
@[simp] theorem noEffect_buf (s : State) : s.noEffect.buf = s.buf := rfl
@[simp] theorem noEffect_cklo (s : State) : s.noEffect.cklo = s.cklo := rfl
@[simp] theorem noEffect_tbl (s : State) : s.noEffect.tbl = s.tbl := rfl
@[simp] theorem noEffect_speedRaw (s : State) : s.noEffect.speedRaw = s.speedRaw := rfl
@[simp] theorem noEffect_speedValid (s : State) : s.noEffect.speedValid = s.speedValid := rfl
@[simp] theorem noEffect_errCnt (s : State) : s.noEffect.errCnt = s.errCnt := rfl
@[simp] theorem noEffect_source (s : State) : s.noEffect.source = s.source := rfl
@[simp] theorem noEffect_inputs (s : State) : s.noEffect.inputs = s.inputs := rfl
@[simp] theorem noEffect_out (s : State) : s.noEffect.out = { s.out with consumed := false, evt := .none, evtBlk := 0 } := rfl

/-! ### `commitOk` -/

@[simp] theorem commitOk_st (s : State) : s.commitOk.st = s.st := rfl
@[simp] theorem commitOk_blk (s : State) : s.commitOk.blk = s.blk := rfl
@[simp] theorem commitOk_cnt (s : State) : s.commitOk.cnt = s.cnt := rfl
@[simp] theorem commitOk_buf (s : State) : s.commitOk.buf = s.buf := rfl
@[simp] theorem commitOk_cklo (s : State) : s.commitOk.cklo = s.cklo := rfl
@[simp] theorem commitOk_tbl (s : State) : s.commitOk.tbl = s.tbl.writeBlock s.blk (decodedSlots s.buf) := rfl
@[simp] theorem commitOk_speedRaw (s : State) : s.commitOk.speedRaw = speedField s.buf := rfl
@[simp] theorem commitOk_speedValid (s : State) : s.commitOk.speedValid = true := rfl
@[simp] theorem commitOk_errCnt (s : State) : s.commitOk.errCnt = s.errCnt := rfl
@[simp] theorem commitOk_source (s : State) : s.commitOk.source = s.source := rfl
@[simp] theorem commitOk_inputs (s : State) : s.commitOk.inputs = s.inputs := rfl
@[simp] theorem commitOk_out (s : State) : s.commitOk.out = { s.out with evt := .pktOk, evtBlk := s.blk } := rfl

/-! ### `commitBad` -/

@[simp] theorem commitBad_st (s : State) : s.commitBad.st = s.st := rfl
@[simp] theorem commitBad_blk (s : State) : s.commitBad.blk = s.blk := rfl
@[simp] theorem commitBad_cnt (s : State) : s.commitBad.cnt = s.cnt := rfl
@[simp] theorem commitBad_buf (s : State) : s.commitBad.buf = s.buf := rfl
@[simp] theorem commitBad_cklo (s : State) : s.commitBad.cklo = s.cklo := rfl
@[simp] theorem commitBad_tbl (s : State) : s.commitBad.tbl = s.tbl.writeBlock s.blk (Vector.replicate 4 sentinel) := rfl
@[simp] theorem commitBad_speedRaw (s : State) : s.commitBad.speedRaw = s.speedRaw := rfl
@[simp] theorem commitBad_speedValid (s : State) : s.commitBad.speedValid = s.speedValid := rfl
@[simp] theorem commitBad_errCnt (s : State) : s.commitBad.errCnt = s.errCnt + 1 := rfl
@[simp] theorem commitBad_source (s : State) : s.commitBad.source = s.source := rfl
@[simp] theorem commitBad_inputs (s : State) : s.commitBad.inputs = s.inputs := rfl
@[simp] theorem commitBad_out (s : State) : s.commitBad.out = { s.out with evt := .pktBad, evtBlk := s.blk } := rfl

/-! ### `enterHalt` -/

@[simp] theorem enterHalt_st (s : State) (target : Framing) (e : Evt) : (s.enterHalt target e).st = target := rfl
@[simp] theorem enterHalt_blk (s : State) (target : Framing) (e : Evt) : (s.enterHalt target e).blk = s.blk := rfl
@[simp] theorem enterHalt_cnt (s : State) (target : Framing) (e : Evt) : (s.enterHalt target e).cnt = 0 := rfl
@[simp] theorem enterHalt_buf (s : State) (target : Framing) (e : Evt) : (s.enterHalt target e).buf = s.buf := rfl
@[simp] theorem enterHalt_cklo (s : State) (target : Framing) (e : Evt) : (s.enterHalt target e).cklo = s.cklo := rfl
@[simp] theorem enterHalt_tbl (s : State) (target : Framing) (e : Evt) : (s.enterHalt target e).tbl = s.tbl := rfl
@[simp] theorem enterHalt_speedRaw (s : State) (target : Framing) (e : Evt) : (s.enterHalt target e).speedRaw = s.speedRaw := rfl
@[simp] theorem enterHalt_speedValid (s : State) (target : Framing) (e : Evt) : (s.enterHalt target e).speedValid = s.speedValid := rfl
@[simp] theorem enterHalt_errCnt (s : State) (target : Framing) (e : Evt) : (s.enterHalt target e).errCnt = s.errCnt := rfl
@[simp] theorem enterHalt_source (s : State) (target : Framing) (e : Evt) : (s.enterHalt target e).source = s.source := rfl
@[simp] theorem enterHalt_inputs (s : State) (target : Framing) (e : Evt) : (s.enterHalt target e).inputs = s.inputs := rfl
@[simp] theorem enterHalt_out (s : State) (target : Framing) (e : Evt) : (s.enterHalt target e).out = { s.out with consumed := false, evt := e, evtBlk := 0 } := rfl

/-! ### `resetBlock` -/

@[simp] theorem resetBlock_st (s : State) : s.resetBlock.st = .seekStart := rfl
@[simp] theorem resetBlock_blk (s : State) : s.resetBlock.blk = 0 := rfl
@[simp] theorem resetBlock_cnt (s : State) : s.resetBlock.cnt = 0 := rfl
@[simp] theorem resetBlock_buf (s : State) : s.resetBlock.buf = Vector.replicate 18 0 := rfl
@[simp] theorem resetBlock_cklo (s : State) : s.resetBlock.cklo = 0 := rfl
@[simp] theorem resetBlock_tbl (s : State) : s.resetBlock.tbl = [] := rfl
@[simp] theorem resetBlock_speedRaw (s : State) : s.resetBlock.speedRaw = 0 := rfl
@[simp] theorem resetBlock_speedValid (s : State) : s.resetBlock.speedValid = false := rfl
@[simp] theorem resetBlock_errCnt (s : State) : s.resetBlock.errCnt = 0 := rfl
@[simp] theorem resetBlock_source (s : State) : s.resetBlock.source = s.source := rfl
@[simp] theorem resetBlock_inputs (s : State) : s.resetBlock.inputs = s.inputs := rfl
@[simp] theorem resetBlock_out (s : State) : s.resetBlock.out = { s.out with consumed := false, evt := .none, evtBlk := 0 } := rfl

/-! ### `beginStep` -/

/-- What a step does before its operation: the first input is used up, the ports are set, nothing else changes. -/
theorem beginStep_eq (s : State) : ∃ o, s.beginStep = { s with inputs := s.inputs.tail, out := o } := by
  unfold State.beginStep
  split <;> exact ⟨_, rfl⟩

@[simp] theorem beginStep_st (s : State) : s.beginStep.st = s.st := by
  obtain ⟨o, h⟩ := beginStep_eq s; rw [h]
@[simp] theorem beginStep_blk (s : State) : s.beginStep.blk = s.blk := by
  obtain ⟨o, h⟩ := beginStep_eq s; rw [h]
@[simp] theorem beginStep_cnt (s : State) : s.beginStep.cnt = s.cnt := by
  obtain ⟨o, h⟩ := beginStep_eq s; rw [h]
@[simp] theorem beginStep_buf (s : State) : s.beginStep.buf = s.buf := by
  obtain ⟨o, h⟩ := beginStep_eq s; rw [h]
@[simp] theorem beginStep_cklo (s : State) : s.beginStep.cklo = s.cklo := by
  obtain ⟨o, h⟩ := beginStep_eq s; rw [h]
@[simp] theorem beginStep_tbl (s : State) : s.beginStep.tbl = s.tbl := by
  obtain ⟨o, h⟩ := beginStep_eq s; rw [h]
@[simp] theorem beginStep_speedRaw (s : State) : s.beginStep.speedRaw = s.speedRaw := by
  obtain ⟨o, h⟩ := beginStep_eq s; rw [h]
@[simp] theorem beginStep_speedValid (s : State) : s.beginStep.speedValid = s.speedValid := by
  obtain ⟨o, h⟩ := beginStep_eq s; rw [h]
@[simp] theorem beginStep_errCnt (s : State) : s.beginStep.errCnt = s.errCnt := by
  obtain ⟨o, h⟩ := beginStep_eq s; rw [h]
@[simp] theorem beginStep_source (s : State) : s.beginStep.source = s.source := by
  obtain ⟨o, h⟩ := beginStep_eq s; rw [h]
@[simp] theorem beginStep_inputs (s : State) : s.beginStep.inputs = s.inputs.tail := by
  obtain ⟨o, h⟩ := beginStep_eq s; rw [h]

/-- The ports of a cycle show the state before it (R146). -/
theorem beginStep_out_cycle (s : State) (p : Pins) (h : s.input = .cycle p) : s.beginStep.out = s.ports p := by
  simp only [State.beginStep, h]

/-! ### `place` -/

@[simp] theorem place_blk (s : State) (sel : Selection) : (s.place sel).blk = s.blk := by
  unfold State.place; split <;> [skip; rfl; rfl]; dsimp only; split <;> rfl
@[simp] theorem place_buf (s : State) (sel : Selection) : (s.place sel).buf = s.buf := by
  unfold State.place; split <;> [skip; rfl; rfl]; dsimp only; split <;> rfl
@[simp] theorem place_cklo (s : State) (sel : Selection) : (s.place sel).cklo = s.cklo := by
  unfold State.place; split <;> [skip; rfl; rfl]; dsimp only; split <;> rfl
@[simp] theorem place_tbl (s : State) (sel : Selection) : (s.place sel).tbl = s.tbl := by
  unfold State.place; split <;> [skip; rfl; rfl]; dsimp only; split <;> rfl
@[simp] theorem place_speedRaw (s : State) (sel : Selection) : (s.place sel).speedRaw = s.speedRaw := by
  unfold State.place; split <;> [skip; rfl; rfl]; dsimp only; split <;> rfl
@[simp] theorem place_speedValid (s : State) (sel : Selection) : (s.place sel).speedValid = s.speedValid := by
  unfold State.place; split <;> [skip; rfl; rfl]; dsimp only; split <;> rfl
@[simp] theorem place_errCnt (s : State) (sel : Selection) : (s.place sel).errCnt = s.errCnt := by
  unfold State.place; split <;> [skip; rfl; rfl]; dsimp only; split <;> rfl
@[simp] theorem place_out (s : State) (sel : Selection) : (s.place sel).out = s.out := by
  unfold State.place; split <;> [skip; rfl; rfl]; dsimp only; split <;> rfl

end Sys2Proof.Machine
end

