-- ==== Sys2Proof/Laws/Table.lean ====
section
/-! SUPPORT. The laws of the table (20_memory.md R40, R44, R46): reading after a write, and that every write keeps the
canonical form. None needs the table to be in that form, but for the ones that say it stays so. -/

namespace Sys2Proof.Machine

@[simp] theorem lookup_nil (a : Nat) : Table.lookup [] a = Slot.empty := rfl

theorem lookup_cons (b : Nat) (u : Slot) (t : Table) (a : Nat) :
    Table.lookup ((b, u) :: t) a = if b = a then u else Table.lookup t a := rfl

theorem lookup_erase (t : Table) (a b : Nat) : (t.erase a).lookup b = if a = b then Slot.empty else t.lookup b := by
  induction t with
  | nil => simp [Table.erase]
  | cons p t ih =>
    obtain ⟨c, u⟩ := p
    by_cases hca : c = a
    · subst hca
      by_cases hcb : c = b <;> simp_all [Table.erase, lookup_cons]
    · by_cases hcb : c = b
      · subst hcb
        simp [Table.erase, hca, lookup_cons, Ne.symm hca]
      · simp [Table.erase, hca, lookup_cons, hcb, ih]

/-- Inserting at an address that is not listed. -/
theorem lookup_insert (t : Table) (a b : Nat) (v : Slot) (h : ∀ p ∈ t, p.1 ≠ a) :
    (t.insert a v).lookup b = if a = b then v else t.lookup b := by
  induction t with
  | nil => simp [Table.insert, lookup_cons]
  | cons p t ih =>
    obtain ⟨c, u⟩ := p
    have hca : c ≠ a := h (c, u) (by simp)
    have ht : ∀ p ∈ t, p.1 ≠ a := fun p hp => h p (by simp [hp])
    by_cases hlt : a < c
    · simp [Table.insert, hlt, lookup_cons]
    · by_cases hab : a = b
      · subst hab
        simp [Table.insert, hlt, lookup_cons, hca, ih ht]
      · simp [Table.insert, hlt, lookup_cons, ih ht, hab]

theorem mem_erase {t : Table} {a : Nat} {p : Nat × Slot} : p ∈ t.erase a ↔ p ∈ t ∧ p.1 ≠ a := by
  induction t with
  | nil => simp [Table.erase]
  | cons q t ih =>
    obtain ⟨c, u⟩ := q
    by_cases hca : c = a
    · subst hca
      simp only [Table.erase, if_true, ih, List.mem_cons]
      constructor
      · rintro ⟨h, hne⟩; exact ⟨.inr h, hne⟩
      · rintro ⟨rfl | h, hne⟩
        · exact absurd rfl hne
        · exact ⟨h, hne⟩
    · simp only [Table.erase, hca, if_false, List.mem_cons, ih]
      constructor
      · rintro (rfl | ⟨h, hne⟩)
        · exact ⟨.inl rfl, hca⟩
        · exact ⟨.inr h, hne⟩
      · rintro ⟨rfl | h, hne⟩
        · exact .inl rfl
        · exact .inr ⟨h, hne⟩

theorem mem_insert {t : Table} {a : Nat} {v : Slot} {p : Nat × Slot} :
    p ∈ t.insert a v ↔ p = (a, v) ∨ p ∈ t := by
  induction t with
  | nil => simp [Table.insert]
  | cons q t ih =>
    obtain ⟨c, u⟩ := q
    by_cases hlt : a < c
    · simp [Table.insert, hlt]
    · simp only [Table.insert, hlt, if_false, List.mem_cons, ih]
      tauto

/-- R44: a write replaces the whole slot at its address and no other. -/
theorem lookup_write (t : Table) (a b : Nat) (v : Slot) :
    (t.write a v).lookup b = if a = b then v else t.lookup b := by
  unfold Table.write
  by_cases hv : v = Slot.empty
  · simp [hv, lookup_erase]
  · have h : ∀ p ∈ t.erase a, p.1 ≠ a := fun p hp => (mem_erase.mp hp).2
    rw [if_neg hv, lookup_insert _ _ _ _ h, lookup_erase]
    by_cases hab : a = b <;> simp only [hab, if_true, if_false]

/-- What a write lists. -/
theorem mem_write {t : Table} {a : Nat} {v : Slot} {p : Nat × Slot} (h : p ∈ t.write a v) : p = (a, v) ∨ p ∈ t := by
  unfold Table.write at h
  split at h
  · exact .inr (mem_erase.mp h).1
  · rcases mem_insert.mp h with h | h
    · exact .inl h
    · exact .inr (mem_erase.mp h).1

theorem erase_sublist (t : Table) (a : Nat) : List.Sublist (t.erase a) t := by
  induction t with
  | nil => exact List.Sublist.slnil
  | cons p t ih =>
    obtain ⟨c, u⟩ := p
    by_cases hca : c = a
    · simp only [Table.erase, hca, if_true]
      exact ih.cons _
    · simp only [Table.erase, hca, if_false]
      exact ih.cons_cons _

theorem insert_sorted (t : Table) (a : Nat) (v : Slot) (hs : t.Pairwise (fun p q => p.1 < q.1))
    (h : ∀ p ∈ t, p.1 ≠ a) : (t.insert a v).Pairwise (fun p q => p.1 < q.1) := by
  induction t with
  | nil => simp [Table.insert]
  | cons p t ih =>
    obtain ⟨c, u⟩ := p
    have hca : c ≠ a := h (c, u) (by simp)
    obtain ⟨hc, hst⟩ := List.pairwise_cons.mp hs
    by_cases hlt : a < c
    · simp only [Table.insert, hlt, if_true]
      refine List.pairwise_cons.mpr ⟨?_, hs⟩
      intro q hq
      rcases List.mem_cons.mp hq with rfl | hq
      · exact hlt
      · exact lt_trans hlt (hc q hq)
    · simp only [Table.insert, hlt, if_false]
      refine List.pairwise_cons.mpr ⟨?_, ih hst fun q hq => h q (by simp [hq])⟩
      intro q hq
      rcases mem_insert.mp hq with rfl | hq
      · exact lt_of_le_of_ne (not_lt.mp hlt) hca
      · exact hc q hq

/-- A write at an angle of the table keeps the canonical form. -/
theorem write_wf (t : Table) (a : Nat) (v : Slot) (ha : a < 360) (h : t.wf) : (t.write a v).wf := by
  obtain ⟨hs, hp⟩ := h
  have hes : (t.erase a).Pairwise (fun p q => p.1 < q.1) := hs.sublist (erase_sublist t a)
  unfold Table.write
  split
  · exact ⟨hes, fun p hq => hp p (mem_erase.mp hq).1⟩
  · rename_i hv
    refine ⟨insert_sorted _ _ _ hes fun p hq => (mem_erase.mp hq).2, ?_⟩
    intro p hq
    rcases mem_insert.mp hq with rfl | hq
    · exact ⟨ha, hv⟩
    · exact hp p (mem_erase.mp hq).1

@[simp] theorem angle_eq (blk : BitVec 7) (k : Nat) : angle blk k = blk.toNat * 4 + k := rfl

/-- The four writes of a packet keep the canonical form. -/
theorem writeBlock_wf (t : Table) (blk : BitVec 7) (slots : Vector Slot 4) (hb : blk.toNat < 90) (h : t.wf) :
    (t.writeBlock blk slots).wf := by
  unfold Table.writeBlock
  refine write_wf _ _ _ ?_ (write_wf _ _ _ ?_ (write_wf _ _ _ ?_ (write_wf _ _ _ ?_ h))) <;> simp only [angle_eq] <;> omega

/-- Everything the four writes of a packet do to what is read (R44, R119, R123). -/
theorem lookup_writeBlock (t : Table) (blk : BitVec 7) (slots : Vector Slot 4) (b : Nat) :
    (t.writeBlock blk slots).lookup b =
      if h : blk.toNat * 4 ≤ b ∧ b < blk.toNat * 4 + 4 then slots[b - blk.toNat * 4] else t.lookup b := by
  simp only [Table.writeBlock, lookup_write, angle_eq]
  by_cases h : blk.toNat * 4 ≤ b ∧ b < blk.toNat * 4 + 4
  · rw [dif_pos h]
    obtain ⟨k, rfl⟩ : ∃ k, b = blk.toNat * 4 + k := ⟨b - blk.toNat * 4, by omega⟩
    have hk : k < 4 := by omega
    interval_cases k <;> simp
  · rw [dif_neg h]
    have h0 : ¬ blk.toNat * 4 + 0 = b := by omega
    have h1 : ¬ blk.toNat * 4 + 1 = b := by omega
    have h2 : ¬ blk.toNat * 4 + 2 = b := by omega
    have h3 : ¬ blk.toNat * 4 + 3 = b := by omega
    simp only [h0, h1, h2, h3, if_false]

/-- Inside the table a read is the lookup; outside it is empty (R46). -/
theorem read_eq (t : Table) (a : ReadAddr) :
    t.read a = if a.toNat ≤ 359 then t.lookup a.toNat else Slot.empty := rfl

/-- A read after the four writes of a packet, inside its angles. -/
theorem read_writeBlock_same (t : Table) (blk : BitVec 7) (slots : Vector Slot 4) (hb : blk.toNat < 90) (k : Nat)
    (hk : k < 4) (a : ReadAddr) (ha : a.toNat = blk.toNat * 4 + k) : (t.writeBlock blk slots).read a = slots[k] := by
  have h1 : a.toNat ≤ 359 := by omega
  have h2 : blk.toNat * 4 ≤ a.toNat ∧ a.toNat < blk.toNat * 4 + 4 := by omega
  have h3 : a.toNat - blk.toNat * 4 = k := by omega
  simp only [read_eq, h1, if_true, lookup_writeBlock, dif_pos h2, h3]

/-- A read after the four writes of a packet, outside its angles. -/
theorem read_writeBlock_other (t : Table) (blk : BitVec 7) (slots : Vector Slot 4) (a : ReadAddr)
    (ha : ¬ (blk.toNat * 4 ≤ a.toNat ∧ a.toNat < blk.toNat * 4 + 4)) : (t.writeBlock blk slots).read a = t.read a := by
  simp only [read_eq, lookup_writeBlock, dif_neg ha]

/-- What the four writes of a packet list. -/
theorem mem_writeBlock {t : Table} {blk : BitVec 7} {slots : Vector Slot 4} {p : Nat × Slot}
    (h : p ∈ t.writeBlock blk slots) : (∃ k, ∃ hk : k < 4, p.2 = slots[k]) ∨ p ∈ t := by
  unfold Table.writeBlock at h
  rcases mem_write h with rfl | h
  · exact .inl ⟨3, by omega, rfl⟩
  rcases mem_write h with rfl | h
  · exact .inl ⟨2, by omega, rfl⟩
  rcases mem_write h with rfl | h
  · exact .inl ⟨1, by omega, rfl⟩
  rcases mem_write h with rfl | h
  · exact .inl ⟨0, by omega, rfl⟩
  exact .inr h

/-- Reset memory lists nothing and is in canonical form. -/
theorem reset_tbl_wf : State.reset.tbl.wf := by decide

end Sys2Proof.Machine
end

