-- ==== Sys2Proof/Laws/Ops.lean ====
section
/-! SUPPORT. What each shared operation, each case of the decoder and one step can do, said once. -/

namespace Sys2Proof.Machine

/-! ### Little-endian words -/

theorem le16_toNat (lo hi : Byte) : (le16 lo hi).toNat = lo.toNat + 256 * hi.toNat := by
  have hlo := lo.isLt
  have hhi := hi.isLt
  have h := Nat.two_pow_add_eq_or_of_lt hlo hi.toNat
  have hsl : hi.toNat <<< 8 % 2 ^ 16 = 2 ^ 8 * hi.toNat := by rw [Nat.shiftLeft_eq]; omega
  simp only [le16, BitVec.toNat_or, BitVec.toNat_shiftLeft, BitVec.toNat_setWidth]
  rw [Nat.mod_eq_of_lt (by omega : lo.toNat < 2 ^ 16), Nat.mod_eq_of_lt (by omega : hi.toNat < 2 ^ 16), hsl,
    Nat.or_comm, ← h]
  omega

/-- Two bytes are determined by their word. -/
theorem le16_inj {lo hi lo' hi' : Byte} (h : le16 lo hi = le16 lo' hi') : lo = lo' ∧ hi = hi' := by
  have := congrArg BitVec.toNat h
  rw [le16_toNat, le16_toNat] at this
  have h1 := lo.isLt
  have h2 := lo'.isLt
  exact ⟨BitVec.eq_of_toNat_eq (by omega), BitVec.eq_of_toNat_eq (by omega)⟩

/-! ### The words consumers see -/

/-- SLOT(a), bit by bit (R31). -/
theorem slotWord_getLsbD (v : Slot) (i : Nat) : (slotWord v).getLsbD i =
    if i < 16 then v.dist.getLsbD i else if i < 32 then v.qual.getLsbD (i - 16) else (i == 32 && v.filled) := by
  have h1 : (slotWord v).getLsbD i = ((BitVec.ofBool v.filled ++ v.qual) ++ v.dist).getLsbD i := rfl
  rw [h1, BitVec.getLsbD_append, BitVec.getLsbD_append]
  by_cases h : i < 16
  · simp [h]
  · by_cases h' : i < 32
    · have : i - 16 < 16 := by omega
      simp [h, h', this]
    · have h16 : ¬ i - 16 < 16 := by omega
      have h32 : i - 16 - 16 = 0 ↔ i = 32 := by omega
      simp only [h, h', h16, if_false, BitVec.getLsbD_ofBool, h32]
      rfl

theorem slotWord_filled (v : Slot) : (slotWord v).getLsbD 32 = v.filled := by
  rw [slotWord_getLsbD, if_neg (by omega), if_neg (by omega)]
  rfl

theorem slotWord_qual (v : Slot) : (slotWord v).extractLsb' 16 16 = v.qual := by
  apply BitVec.eq_of_getLsbD_eq
  intro i hi
  rw [BitVec.getLsbD_extractLsb', slotWord_getLsbD]
  simp [hi]
  omega

theorem slotWord_dist (v : Slot) : (slotWord v).extractLsb' 0 16 = v.dist := by
  apply BitVec.eq_of_getLsbD_eq
  intro i hi
  rw [BitVec.getLsbD_extractLsb', slotWord_getLsbD]
  simp [hi]

/-! ### The checksum -/

theorem reduceAcc_toNat (acc : Nat) : (reduceAcc acc).toNat = (acc % 32768 + acc / 32768) % 32768 := by
  have h : ∀ n : Nat, n &&& 32767 = n % 32768 := fun n => Nat.and_two_pow_sub_one_eq_mod n 15
  simp only [reduceAcc, Config.ckBits, Config.ckMask, BitVec.toNat_ofNat, h, Nat.shiftRight_eq_div_pow]
  omega

theorem foldWords_cons (acc : Nat) (lo hi : Byte) (rest : List Byte) :
    foldWords acc (lo :: hi :: rest) = foldWords (2 * acc + (lo.toNat + 256 * hi.toNat)) rest := by
  rw [foldWords, le16_toNat, Nat.shiftLeft_eq, Nat.pow_one, Nat.mul_comm]

/-- R109: the bytes the checksum covers. -/
theorem checksumBytes_body (blk : BitVec 7) (buf : Vector Byte 18) (k : Nat) (hk : k < 18) :
    (checksumBytes blk buf)[k + 2] = buf[k] := by
  unfold checksumBytes
  rw [Vector.getElem_cast, Vector.getElem_append_right _ (by omega : 2 ≤ k + 2)]
  rfl

theorem checksumBytes_toList (blk : BitVec 7) (buf : Vector Byte 18) :
    (checksumBytes blk buf).toList = 0xFA :: (blk.setWidth 8 + 0xA0) :: buf.toList := by
  unfold checksumBytes
  rw [Vector.toList_cast, Vector.toList_append]
  rfl

/-- R104: the comparison as numbers. -/
theorem checksumMatches_iff (blk : BitVec 7) (buf : Vector Byte 18) (lo hi : Byte) :
    checksumMatches blk buf lo hi = true ↔ (checksum (checksumBytes blk buf)).toNat = lo.toNat + 256 * hi.toNat := by
  have h := (checksum (checksumBytes blk buf)).isLt
  simp only [checksumMatches, beq_iff_eq, ← BitVec.toNat_inj, le16_toNat, BitVec.toNat_setWidth]
  rw [Nat.mod_eq_of_lt (by omega)]

/-! ### The input of a step -/

theorem input_nil (s : State) (h : s.inputs = []) : s.input = .cycle Pins.quiet := by simp [State.input, h]

theorem input_cons (s : State) (e : Input) (rest : List Input) (h : s.inputs = e :: rest) : s.input = e := by
  simp [State.input, h]

@[simp] theorem controlVector_rst (s : State) (p : Pins) : (s.controlVector p).rst = p.rst := by
  unfold State.controlVector; cases p.rst <;> cases p.srcErr <;> cases p.stop <;> cases s.offers p <;> rfl
@[simp] theorem controlVector_srcErr (s : State) (p : Pins) : (s.controlVector p).srcErr = p.srcErr := by
  unfold State.controlVector; cases p.rst <;> cases p.srcErr <;> cases p.stop <;> cases s.offers p <;> rfl
@[simp] theorem controlVector_stop (s : State) (p : Pins) : (s.controlVector p).stop = p.stop := by
  unfold State.controlVector; cases p.rst <;> cases p.srcErr <;> cases p.stop <;> cases s.offers p <;> rfl
@[simp] theorem controlVector_inValid (s : State) (p : Pins) : (s.controlVector p).inValid = s.offers p := by
  unfold State.controlVector; cases p.rst <;> cases p.srcErr <;> cases p.stop <;> cases s.offers p <;> rfl

/-- R166: what a cycle decodes to, by priority. -/
theorem decode_cycle (s : State) (p : Pins) (h : s.input = .cycle p) :
    decode s.st s.cnt s.inputWord =
      if p.rst then .ok .reset
      else if p.srcErr then .ok .srcErr
      else if p.stop then .ok .stop
      else if s.offers p then decodeByte s.st s.cnt s.inByte
      else .ok .idle := by
  simp only [State.inputWord, h, decode, controlVector_rst, controlVector_srcErr, controlVector_stop,
    controlVector_inValid]

theorem decode_readSlot (s : State) (a : ReadAddr) (h : s.input = .readSlot a) :
    decode s.st s.cnt s.inputWord = .ok (.rdSlot a) := by
  simp only [State.inputWord, h, decode]

theorem decode_readStatus (s : State) (h : s.input = .readStatus) :
    decode s.st s.cnt s.inputWord = .ok .rdStatus := by
  simp only [State.inputWord, h, decode]

/-- A byte event names no operation exactly in the two unused states. -/
theorem decodeByte_error {st : Framing} {cnt : BitVec 5} {x : Byte} {e : DecodeError}
    (h : decodeByte st cnt x = .error e) : st = .unused6 ∨ st = .unused7 := by
  cases st <;> simp_all [decodeByte]

/-! ### One step -/

theorem step_of_decode {s : State} {i : Instr} (h : decode s.st s.cnt s.inputWord = .ok i) :
    step s = exec i s.beginStep := by
  simp only [step, h]

theorem step_of_error {s : State} {e : DecodeError} (h : decode s.st s.cnt s.inputWord = .error e) :
    step s = .fault (decodeFault e) := by
  simp only [step, h]

/-- A step that answers a state ran the operation it decoded. -/
theorem step_next {s t : State} (h : step s = .next t) :
    ∃ i, decode s.st s.cnt s.inputWord = .ok i ∧ exec i s.beginStep = .next t := by
  unfold step at h
  split at h
  · exact ⟨_, by assumption, h⟩
  · cases h

/-! ### Operations with more than one outcome -/

/-- BODY_BYTE: both ways on, and its stop. -/
theorem execBodyByte_of_lt (x : Byte) (s : State) (h : s.cnt.toNat < 18) :
    execBodyByte x s = .next
      { s.takeByte with
        buf := s.buf.set s.cnt.toNat x h
        cnt := if s.cnt = 17 then 0 else s.cnt + 1
        st := if s.cnt = 17 then .readChecksum else s.st } := by
  unfold execBodyByte
  rw [dif_pos h]
  by_cases h17 : s.cnt = 17
  · simp only [h17, if_true]
  · simp only [h17, if_false]; rfl

theorem execBodyByte_of_ge (x : Byte) (s : State) (h : ¬ s.cnt.toNat < 18) :
    execBodyByte x s = .fault .bodyIndexOutOfRange := dif_neg h

/-- CK_HI with the checksum right: COMMIT_OK (R120). -/
theorem execCkHi_ok (x : Byte) (s : State) (hb : s.blk.toNat < 90)
    (h : checksumMatches s.blk s.buf s.cklo x = true) :
    execCkHi x s = .next { s.consume.commitOk with cnt := 0, st := .seekStart } := by
  simp only [execCkHi, Config.nBlocks, hb, h, if_true]

/-- CK_HI with the checksum wrong: COMMIT_BAD (R121). -/
theorem execCkHi_bad (x : Byte) (s : State) (hb : s.blk.toNat < 90)
    (h : checksumMatches s.blk s.buf s.cklo x = false) :
    execCkHi x s = .next { s.consume.commitBad with cnt := 0, st := .seekStart } := by
  simp [execCkHi, hb, h]

theorem execCkHi_stop (x : Byte) (s : State) (hb : ¬ s.blk.toNat < 90) :
    execCkHi x s = .fault .angleOutOfTable := if_neg hb

/-- Every way CK_HI goes on. -/
theorem execCkHi_next {x : Byte} {s t : State} (h : execCkHi x s = .next t) :
    s.blk.toNat < 90 ∧
      ((checksumMatches s.blk s.buf s.cklo x = true ∧ t = { s.consume.commitOk with cnt := 0, st := .seekStart }) ∨
        (checksumMatches s.blk s.buf s.cklo x = false ∧
          t = { s.consume.commitBad with cnt := 0, st := .seekStart })) := by
  by_cases hb : s.blk.toNat < 90
  · refine ⟨hb, ?_⟩
    cases hm : checksumMatches s.blk s.buf s.cklo x with
    | true => rw [execCkHi_ok x s hb hm] at h; cases h; exact .inl ⟨rfl, rfl⟩
    | false => rw [execCkHi_bad x s hb hm] at h; cases h; exact .inr ⟨rfl, rfl⟩
  · rw [execCkHi_stop x s hb] at h; cases h

/-- SRC_ERR: entering FAULT, nothing when halted, the stop. -/
theorem execSrcErr_running (s : State) (h : isRunning s.st = true) :
    execSrcErr s = .next (s.enterHalt .fault .srcFault) := by
  unfold execSrcErr; cases hs : s.st <;> simp_all [isRunning]

theorem execSrcErr_halted (s : State) (h : s.st = .fault ∨ s.st = .stopped) : execSrcErr s = .next s.noEffect := by
  rcases h with h | h <;> simp only [execSrcErr, h]

/-- STOP: entering STOPPED, nothing when halted. -/
theorem execStop_running (s : State) (h : isRunning s.st = true) :
    execStop s = .next (s.enterHalt .stopped .stopAck) := by
  unfold execStop; cases hs : s.st <;> simp_all [isRunning]

theorem execStop_halted (s : State) (h : s.st = .fault ∨ s.st = .stopped) : execStop s = .next s.noEffect := by
  rcases h with h | h <;> simp only [execStop, h]

end Sys2Proof.Machine
end

