-- ==== Sys2Proof/Laws/PerInstr.lean ====
section
/-! SUPPORT. Family `EncodedRow`: the encoded input of a well-formed operation lies in its own row of the opcode table
(30_encoding.md R68, R72). -/

namespace Sys2Proof.Laws.EncodedRow

/-- The row named by the operation's mnemonic holds the control vector and the byte of its encoding; a consumer read
has no row to match. -/
def Statement (i : Instr) : Prop :=
  i.wellFormed = true →
    match encode i with
    | .cycle v x => ∃ r ∈ opcodeTable, r.mnemonic = i.mnemonic ∧ v &&& r.ctrlMask = r.ctrl ∧ inPairs r.pairs x = true
    | .rdSlot _ => i.format = .port
    | .rdStatus => i.format = .port

/-- R68: the pairs of each class hold every byte of its range. -/
theorem inPairs_marker : ∀ x : Byte, isMarker x = true → inPairs markerPairs x = true := by decide
theorem inPairs_notMarker : ∀ x : Byte, (!isMarker x) = true → inPairs notMarkerPairs x = true := by decide
theorem inPairs_index : ∀ x : Byte, isIndexByte x = true → inPairs indexPairs x = true := by decide
theorem inPairs_neither : ∀ x : Byte, (!isIndexByte x && !isMarker x) = true → inPairs neitherPairs x = true := by decide

theorem inPairs_any (x : Byte) : inPairs anyPairs x = true := by simp [inPairs, anyPairs]

theorem seekMarker (x : Byte) : Statement (.seekMarker x) := fun h =>
  ⟨⟨"SEEK_MARKER", 0b0001, 0b1111, [.seekStart], 0, 31, markerPairs⟩, by simp [opcodeTable], rfl, rfl, inPairs_marker x h⟩
theorem seekDiscard (x : Byte) : Statement (.seekDiscard x) := fun h =>
  ⟨⟨"SEEK_DISCARD", 0b0001, 0b1111, [.seekStart], 0, 31, notMarkerPairs⟩, by simp [opcodeTable], rfl, rfl, inPairs_notMarker x h⟩
theorem idxAccept (x : Byte) : Statement (.idxAccept x) := fun h =>
  ⟨⟨"IDX_ACCEPT", 0b0001, 0b1111, [.readIndex], 0, 31, indexPairs⟩, by simp [opcodeTable], rfl, rfl, inPairs_index x h⟩
theorem idxRemark (x : Byte) : Statement (.idxRemark x) := fun h =>
  ⟨⟨"IDX_REMARK", 0b0001, 0b1111, [.readIndex], 0, 31, markerPairs⟩, by simp [opcodeTable], rfl, rfl, inPairs_marker x h⟩
theorem idxDiscard (x : Byte) : Statement (.idxDiscard x) := fun h =>
  ⟨⟨"IDX_DISCARD", 0b0001, 0b1111, [.readIndex], 0, 31, neitherPairs⟩, by simp [opcodeTable], rfl, rfl, inPairs_neither x h⟩
theorem bodyByte (x : Byte) : Statement (.bodyByte x) := fun _ =>
  ⟨⟨"BODY_BYTE", 0b0001, 0b1111, [.readPacket], 0, 17, anyPairs⟩, by simp [opcodeTable], rfl, rfl, inPairs_any x⟩
theorem ckLo (x : Byte) : Statement (.ckLo x) := fun _ =>
  ⟨⟨"CK_LO", 0b0001, 0b1111, [.readChecksum], 0, 0, anyPairs⟩, by simp [opcodeTable], rfl, rfl, inPairs_any x⟩
theorem ckHi (x : Byte) : Statement (.ckHi x) := fun _ =>
  ⟨⟨"CK_HI", 0b0001, 0b1111, [.readChecksum], 1, 1, anyPairs⟩, by simp [opcodeTable], rfl, rfl, inPairs_any x⟩
theorem haltedByte (x : Byte) : Statement (.haltedByte x) := fun _ =>
  ⟨⟨"HALTED_BYTE", 0b0001, 0b1111, [.fault, .stopped], 0, 31, anyPairs⟩, by simp [opcodeTable], rfl, rfl, inPairs_any x⟩
theorem reset : Statement .reset := fun _ =>
  ⟨⟨"RESET", 0b1000, 0b1000, Framing.named, 0, 31, anyPairs⟩, by simp [opcodeTable], rfl, rfl, inPairs_any 0⟩
theorem srcErr : Statement .srcErr := fun _ =>
  ⟨⟨"SRC_ERR", 0b0100, 0b1100, Framing.named, 0, 31, anyPairs⟩, by simp [opcodeTable], rfl, rfl, inPairs_any 0⟩
theorem stop : Statement .stop := fun _ =>
  ⟨⟨"STOP", 0b0010, 0b1110, Framing.named, 0, 31, anyPairs⟩, by simp [opcodeTable], rfl, rfl, inPairs_any 0⟩
theorem idle : Statement .idle := fun _ =>
  ⟨⟨"IDLE", 0b0000, 0b1111, Framing.named, 0, 31, anyPairs⟩, by simp [opcodeTable], rfl, rfl, inPairs_any 0⟩
theorem rdSlot (addr : ReadAddr) : Statement (.rdSlot addr) := fun _ => rfl
theorem rdStatus : Statement .rdStatus := fun _ => rfl

end Sys2Proof.Laws.EncodedRow
end

