-- ==== Sys2Proof/Tests/Slice0.lean ====
section
/-! SUPPORT. Tests of one step or one function each, with expected results from spec/95_test_vectors.md and the rules'
own examples; the smoke test of WellFormed; and, for every statement with hypotheses, a state that meets them. -/

open Sys2Proof Sys2Proof.Machine Sys2Proof.Claims

namespace Sys2Proof.Tests

/-- The state an outcome goes on in. -/
def goesOn : Host.Outcome State Fault Refusal → Option State
  | .next t => some t
  | .fault _ => none
  | .refused _ => none

/-- The fault an outcome stops with. -/
def stops : Host.Outcome State Fault Refusal → Option Fault
  | .next _ => none
  | .fault r => some r
  | .refused _ => none

/-- The reset state elsewhere in the framing, with one byte at the source. -/
def framed (st : Framing) (cnt : BitVec 5) (x : Byte) : State :=
  { State.reset with st := st, cnt := cnt, source := [x] }

/-- Packet PK1 of 95_test_vectors.md before its last byte. -/
def bodyPK1 : Vector Byte 18 :=
  #v[0x00, 0x4B, 0x23, 0x01, 0x45, 0x00, 0xFF, 0xFF, 0xFF, 0xFF, 0x10, 0x80, 0x00, 0x02, 0x67, 0x45, 0x34, 0x12]
def beforeCkHi (x : Byte) : State :=
  { State.reset with st := .readChecksum, cnt := 1, blk := 5, buf := bodyPK1, cklo := 0xAA, source := [x] }

/-- One cycle with given pins. -/
def withPins (s : State) (v : ControlVector) : State := { s with inputs := [.cycle (pinsOf v)] }

/-! ### WellFormed: an ill-formed operation for each check -/

theorem test_illFormed_seekMarker : (Instr.seekMarker 0xA0).wellFormed = false := by decide
theorem test_illFormed_seekDiscard : (Instr.seekDiscard 0xFA).wellFormed = false := by decide
theorem test_illFormed_idxAccept_below : (Instr.idxAccept 0x9F).wellFormed = false := by decide
theorem test_illFormed_idxAccept_marker : (Instr.idxAccept 0xFA).wellFormed = false := by decide
theorem test_illFormed_idxRemark : (Instr.idxRemark 0xFB).wellFormed = false := by decide
theorem test_illFormed_idxDiscard_index : (Instr.idxDiscard 0xF9).wellFormed = false := by decide
theorem test_illFormed_idxDiscard_marker : (Instr.idxDiscard 0xFA).wellFormed = false := by decide

/-! ### Decoding: a word of every operation, from R67, R72 and V-MM -/

theorem test_decode_seekMarker : decodeTableWord 8 0b11111010 = some (.seekMarker 0xFA) := by decide
theorem test_decode_seekDiscard : decodeTableWord 8 0b10100000 = some (.seekDiscard 0xA0) := by decide
theorem test_decode_idxAccept : decode .readIndex 0 (.cycle 0b0001 0b11111001) = .ok (.idxAccept 0xF9) := rfl
theorem test_decode_idxRemark : decode .readIndex 0 (.cycle 0b0001 0b11111010) = .ok (.idxRemark 0xFA) := rfl
theorem test_decode_idxDiscard : decode .readIndex 0 (.cycle 0b0001 0b10011111) = .ok (.idxDiscard 0x9F) := rfl
theorem test_decode_bodyByte : decode .readPacket 17 (.cycle 0b0001 0b00010010) = .ok (.bodyByte 0x12) := rfl
theorem test_decode_ckLo : decode .readChecksum 0 (.cycle 0b0001 0b10101010) = .ok (.ckLo 0xAA) := rfl
theorem test_decode_ckHi : decode .readChecksum 1 (.cycle 0b0001 0b00111111) = .ok (.ckHi 0x3F) := rfl
theorem test_decode_haltedByte : decode .fault 0 (.cycle 0b0001 0b11111010) = .ok (.haltedByte 0xFA) := rfl
/-- V-CT-12: reset wins over a source error. -/
theorem test_decode_reset : decode .readPacket 9 (.cycle 0b1100 0) = .ok .reset := rfl
/-- V-CT-13: a fault wins over a stop. -/
theorem test_decode_srcErr : decode .readPacket 9 (.cycle 0b0110 0) = .ok .srcErr := rfl
/-- V-CT-14. -/
theorem test_decode_stop : decode .seekStart 0 (.cycle 0b0011 0b11111010) = .ok .stop := rfl
theorem test_decode_idle : decode .readPacket 4 (.cycle 0b0000 0) = .ok .idle := rfl
/-- The long words of log 9. -/
theorem test_decode_rdSlot : decodeTableWord 24 0b01_00000_000_000_101100111 = some (.rdSlot 359) := by decide
theorem test_decode_rdStatus : decodeTableWord 24 0b10_00000_000_0000_00000000 = some .rdStatus := by decide
theorem test_decode_longWord : decodeTableWord 24 0b00_00001_011_0001_00111111 = some (.ckHi 0x3F) := by decide
theorem test_decode_extraBit : decodeTableWord 24 0b11_00000_000_0000_00000000 = none := by decide
/-- R141: `st` 6 selects nothing. -/
theorem test_decode_unused : decode .unused6 0 (.cycle 0b0001 0) = .error .unusedFramingState := rfl

/-! ### Byte operations: V-FR -/

theorem test_seekMarker_V_FR_1 : (goesOn (step (framed .seekStart 0 0xFA))).map (·.st) = some .readIndex := by decide
theorem test_seekDiscard_V_FR_3 :
    (goesOn (step (framed .seekStart 0 0xA0))).map (fun t => (t.st, t.source, t.out.consumed)) =
      some (.seekStart, [], true) := by decide
theorem test_idxAccept_V_FR_6 :
    (goesOn (step (framed .readIndex 0 0xF9))).map (fun t => (t.st, t.blk, t.cnt)) = some (.readPacket, 89, 0) := by decide
theorem test_idxRemark_V_FR_7 : (goesOn (step (framed .readIndex 0 0xFA))).map (·.st) = some .readIndex := by decide
theorem test_idxDiscard_V_FR_8 : (goesOn (step (framed .readIndex 0 0x9F))).map (·.st) = some .seekStart := by decide
theorem test_bodyByte_V_FR_11 :
    (goesOn (step (framed .readPacket 3 0xFA))).map (fun t => (t.st, t.buf[3], t.cnt)) = some (.readPacket, 0xFA, 4) := by
  decide
theorem test_bodyByte_V_FR_13 :
    (goesOn (step (framed .readPacket 17 0x12))).map (fun t => (t.st, t.buf[17], t.cnt)) =
      some (.readChecksum, 0x12, 0) := by decide
theorem test_ckLo_V_FR_14 :
    (goesOn (step (framed .readChecksum 0 0xAA))).map (fun t => (t.st, t.cklo, t.cnt)) = some (.readChecksum, 0xAA, 1) := by
  decide
/-- V-FR-15, V-CM-1. -/
theorem test_ckHi_V_CM_1 :
    (goesOn (step (beforeCkHi 0x3F))).map (fun t => (t.tbl, t.speedRaw, t.out.evt)) =
      some ([(20, ⟨true, 0x0123, 0x0045⟩), (21, ⟨true, 0x3FFF, 0xFFFF⟩), (22, ⟨true, 0x0010, 0x0200⟩),
        (23, ⟨true, 0x0567, 0x1234⟩)], 0x4B00, .pktOk) := by decide
/-- V-FR-16 with R121, the counter wrapping as in V-CM-5. -/
theorem test_ckHi_V_FR_16 :
    (goesOn (step { beforeCkHi 0x3E with errCnt := 0xFFFFFFFF })).map (fun t => (t.tbl, t.errCnt, t.out.evt, t.out.evtBlk)) =
      some ([(20, ⟨true, 0x8000, 0⟩), (21, ⟨true, 0x8000, 0⟩), (22, ⟨true, 0x8000, 0⟩), (23, ⟨true, 0x8000, 0⟩)], 0,
        .pktBad, 5) := by decide
/-- V-CT-10. -/
theorem test_haltedByte_V_CT_10 :
    (goesOn (step (framed .fault 0 0xFA))).map (fun t => (t.st, t.source, t.out.consumed)) =
      some (.fault, [0xFA], false) := by decide

/-! ### Control: V-CT, V-RS -/

theorem test_srcErr_V_CT_1 :
    (goesOn (step (withPins { framed .readPacket 9 0 with blk := 5 } 0b0100))).map (fun t => (t.st, t.cnt, t.blk, t.out.evt)) =
      some (.fault, 0, 5, .srcFault) := by decide
theorem test_srcErr_V_CT_5 :
    (goesOn (step (withPins (framed .stopped 0 0) 0b0100))).map (fun t => (t.st, t.out.evt)) = some (.stopped, .none) := by
  decide
theorem test_stop_V_CT_14 :
    (goesOn (step (withPins (framed .seekStart 0 0xFA) 0b0011))).map
      (fun t => (t.st, t.source, t.out.inReady, t.out.evt)) = some (.stopped, [0xFA], false, .stopAck) := by decide
theorem test_stop_V_CT_8 : (goesOn (step (withPins (framed .fault 0 0) 0b0010))).map (·.st) = some .fault := by decide
theorem test_idle_V_CT_15 :
    (goesOn (step (withPins (framed .readIndex 0 0xA0) 0b0000))).map (fun t => (t.st, t.source, t.out.inReady)) =
      some (.readIndex, [0xA0], true) := by decide
/-- V-RS-1. -/
theorem test_reset_V_RS_1 :
    (goesOn (step (withPins { beforeCkHi 0xFA with st := .fault, errCnt := 7, tbl := [(20, sentinel)] } 0b1001))).map
      (fun t => { t with out := Outputs.initial }) = some { State.reset with source := [0xFA] } := by decide

/-! ### Consumer reads: V-RD -/

def afterP1 : State :=
  { State.reset with tbl := [(20, ⟨true, 0x0123, 0x0045⟩), (21, ⟨true, 0x3FFF, 0xFFFF⟩)], speedRaw := 0x4B00, speedValid := true }

theorem test_rdSlot_V_RD_2 :
    (goesOn (step { afterP1 with inputs := [.readSlot 21] })).map (·.out.rdData) = some [0x1FFFF3FFF] := by decide
theorem test_rdSlot_V_RD_5 :
    (goesOn (step { afterP1 with inputs := [.readSlot 511] })).map (·.out.rdData) = some [0] := by decide
theorem test_rdStatus_V_RD_6 :
    (goesOn (step { afterP1 with inputs := [.readStatus] })).map (fun t => (t.out.status, t.out.speed, t.out.errcnt)) =
      some (0x08, 0x4B00, 0) := by decide
/-- V-RD-7: a read in the cycle of the commit shows the slot before it. -/
theorem test_sameCycleRead_V_RD_7 :
    (goesOn (step { beforeCkHi 0x3F with inputs := [.cycle { Pins.quiet with rdAddr := [20, 0] }] })).map (·.out.rdData) =
      some [0, 0] := by decide

/-- R21: the six numbers, at STATUS[2:0]. -/
theorem test_status_codes_R21 :
    [Framing.seekStart, .readIndex, .readPacket, .readChecksum, .fault, .stopped].map (fun st => statusWord st false) =
      [0, 1, 2, 3, 4, 5] := by decide

/-! ### Functions: V-CK, V-DC, V-MM, R103 -/

theorem test_checksum_V_CK_3 : checksum (checksumBytes 5 bodyPK1) = 0x3FAA := by decide
/-- V-CK-6: the sum passes 0x7FFF. -/
theorem test_checksum_V_CK_6 :
    checksum #v[0xFA, 0xD7, 0xE0, 0x2B, 0x80, 0x6F, 0xA5, 0x54, 0x69, 0x6F, 0xED, 0xD6, 0xBC, 0x61, 0xD1, 0xF7, 0xD0, 0xF0,
      0x11, 0x95] = 0x019F := by decide
theorem test_checksum_V_CK_7 : checksum (Vector.replicate 20 0xFF) = 0x03FE := by decide
theorem test_unpackDistance_V_DC_7 : unpackDistance ⟨0x34, 0x92, 0, 0⟩ = 0x1234 := by decide
theorem test_unpackQuality_V_DC_9 : unpackQuality ⟨0x00, 0x3F, 0x00, 0x80⟩ = 0x8000 := by decide
theorem test_pairs_V_MM_F9 : (inPairs indexPairs 0xF9, inPairs neitherPairs 0xF9, inPairs notMarkerPairs 0xF9) = (true, false, true) := by
  decide

/-! ### A word placed at reset runs first -/

theorem test_fetch_byte : (goesOn (step (State.reset.withFetchWord 8 0xFA))).map (·.st) = some .readIndex := by decide
theorem test_fetch_long :
    (goesOn (step (State.reset.withFetchWord 24 0b00_00001_011_0001_00111111))).map (fun t => (t.st, t.out.evt)) =
      some (.seekStart, .pktBad) := by decide
theorem test_fetch_read : (goesOn (step (State.reset.withFetchWord 24 (2 ^ 20 + 359)))).map (·.out.rdData) = some [0] := by
  decide

/-! ### The stops in unreachable states: log 3, 4, 5 -/

theorem test_stop_unused : stops (step (framed .unused7 0 0)) = some .unusedFramingState := by decide
theorem test_stop_bodyIndex : stops (step (framed .readPacket 18 0)) = some .bodyIndexOutOfRange := by decide
theorem test_stop_angle : stops (step { beforeCkHi 0x3F with blk := 90 }) = some .angleOutOfTable := by decide
theorem test_reset_from_unused : (goesOn (step (withPins (framed .unused6 31 0) 0b1000))).map (·.st) = some .seekStart := by
  decide

/-! ### Witnesses: for each statement with hypotheses, values that meet them -/

theorem wit_SeekDiscardDropsByte : (0xF9 : Byte) ≠ 0xFA ∧ (0xFB : Byte) ≠ 0xFA := by decide
theorem wit_IdxAcceptTakesBlock :
    (0xA0 ≤ (0xA0 : Byte).toNat ∧ (0xA0 : Byte).toNat ≤ 0xF9) ∧ (0xA0 ≤ (0xF9 : Byte).toNat ∧ (0xF9 : Byte).toNat ≤ 0xF9) := by
  decide
theorem wit_IdxDiscardSeeksAgain : (0x9F : Byte).toNat ≤ 0x9F ∧ 0xFB ≤ (0xFB : Byte).toNat := by decide
theorem wit_BodyByteStoresAndCounts :
    (framed .readPacket 0 0).cnt.toNat < 18 ∧ (framed .readPacket 17 0).cnt.toNat < 18 ∧ (framed .readPacket 17 0).cnt = 17 := by
  decide
theorem wit_CkHiCommitsByComparison :
    (beforeCkHi 0).blk.toNat ≤ 89 ∧ { beforeCkHi 0 with blk := 89 }.blk.toNat ≤ 89 ∧
      checksumMatches 5 bodyPK1 0xAA 0x3F = true ∧ checksumMatches 89 bodyPK1 0xAA 0x3F = false := by decide
theorem wit_CommitOkWritesSamplesAndSpeed :
    (beforeCkHi 0x3F).blk.toNat ≤ 89 ∧
      (checksum (checksumBytes (beforeCkHi 0x3F).blk (beforeCkHi 0x3F).buf)).toNat =
        (beforeCkHi 0x3F).cklo.toNat + 256 * (0x3F : Byte).toNat := by decide
theorem wit_CommitBadWritesSentinelsAndCounts :
    (beforeCkHi 0x3E).blk.toNat ≤ 89 ∧
      (checksum (checksumBytes (beforeCkHi 0x3E).blk (beforeCkHi 0x3E).buf)).toNat ≠
        (beforeCkHi 0x3E).cklo.toNat + 256 * (0x3E : Byte).toNat := by decide
theorem wit_publishes_angles : atAngle 356 89 0 ∧ atAngle 359 89 3 ∧ ∀ k : Fin 4, ¬ atAngle 355 89 k := by
  unfold atAngle; decide
theorem wit_halted : (framed .fault 0 0).st = .fault ∧ (framed .stopped 0 0).st = .stopped := by decide
theorem wit_running :
    (framed .seekStart 0 0).st = .seekStart ∧ (framed .readIndex 0 0).st = .readIndex ∧
      (framed .readPacket 9 0).st = .readPacket ∧ (framed .readChecksum 1 0).st = .readChecksum := by decide
theorem wit_RdSlotAnswersSlot : (359 : ReadAddr).toNat ≤ 359 ∧ 359 < (360 : ReadAddr).toNat ∧ 359 < (511 : ReadAddr).toNat := by
  decide
theorem wit_UnreachableStatesStop :
    18 ≤ (framed .readPacket 18 0).cnt.toNat ∧ 90 ≤ { beforeCkHi 0 with blk := 90 }.blk.toNat ∧
      (framed .unused6 0 0).st = .unused6 ∧ (framed .unused7 0 0).st = .unused7 ∧
      (framed .unused6 0 0).input = .cycle Pins.quiet ∧ Pins.quiet.rst = false ∧ Pins.quiet.srcErr = false ∧
      Pins.quiet.stop = false ∧ Pins.quiet.inValid = true ∧ (framed .unused6 0 0).source ≠ [] := by decide
theorem wit_ChecksumCoversMarkerIndexBody : (0 : BitVec 7).toNat ≤ 89 ∧ (89 : BitVec 7).toNat ≤ 89 := by decide
theorem wit_FoldRegisterOf26BitsSuffices : 26 ≤ 26 ∧ 26 ≤ 64 := by decide
theorem wit_HighChecksumByteNeverMatches : 0x80 ≤ (0x80 : Byte).toNat ∧ (beforeCkHi 0x80).blk.toNat ≤ 89 := by decide
theorem wit_SingleByteDamageIsDetected :
    1 ≤ (1 : Fin 20).val ∧ (0xA6 : Byte) ≠ (checksumBytes 5 bodyPK1)[(1 : Fin 20)] ∧ 1 ≤ (19 : Fin 20).val ∧
      (0x13 : Byte) ≠ (checksumBytes 5 bodyPK1)[(19 : Fin 20)] ∧ checksumMatches 5 bodyPK1 0xAA 0x3F = true ∧
      (0x13 : Byte) ≠ bodyPK1[(17 : Fin 18)] ∧ (6 : BitVec 7) ≠ 5 ∧ (0xAB : Byte) ≠ 0xAA ∧ (0x3E : Byte) ≠ 0x3F ∧ (le16 1 0).toNat = (le16 0 0).toNat + 1 ∧
      (le16 0 0).toNat + 2 = (le16 2 0).toNat := by decide
theorem wit_AnglesStayInTable : (89 : BitVec 7).toNat ≤ 89 ∧ angle 89 (3 : Fin 4) = angle 89 (3 : Fin 4) := by decide
theorem wit_DecodeMapRowByRow :
    (0xFB : Byte) ≠ 0xFA ∧ 0xA0 ≤ (0xA0 : Byte).toNat ∧ (0xF9 : Byte).toNat ≤ 0xF9 ∧ (0x9F : Byte).toNat ≤ 0x9F ∧
      0xFB ≤ (0xFB : Byte).toNat := by decide
theorem wit_ExactlyOneRowMatches :
    isNamed .readPacket = true ∧ counterInRange .readPacket 17 = true ∧ isNamed .readChecksum = true ∧
      counterInRange .readChecksum 1 = true ∧ isNamed .stopped = true ∧ counterInRange .stopped 0 = true := by decide
/-- Each pin alone wins where it stands highest, and all four together. -/
theorem wit_PinsFormOneEventByPriority :
    (∀ v ∈ [0b1111, 0b0111, 0b0011, 0b0001, (0b0000 : ControlVector)],
      (withPins (framed .seekStart 0 0xFA) v).input = .cycle (pinsOf v)) ∧
      (pinsOf 0b1111).rst = true ∧
      ((pinsOf 0b0111).rst = false ∧ (pinsOf 0b0111).srcErr = true) ∧
      ((pinsOf 0b0011).rst = false ∧ (pinsOf 0b0011).srcErr = false ∧ (pinsOf 0b0011).stop = true) ∧
      ((pinsOf 0b0001).rst = false ∧ (pinsOf 0b0001).srcErr = false ∧ (pinsOf 0b0001).stop = false ∧
        (pinsOf 0b0001).inValid = true ∧ (framed .seekStart 0 0xFA).source = 0xFA :: []) ∧
      (pinsOf 0b0000).inValid = false := by decide
theorem wit_PinsFormOneEventByPriority_held :
    ∃ t, step (withPins (framed .seekStart 0 0xFA) 0b0011) = .next t ∧ t.source = [0xFA] := ⟨_, rfl, rfl⟩
theorem wit_EmptySourceIdles :
    (withPins State.reset 0b0001).input = .cycle (pinsOf 0b0001) ∧ (pinsOf 0b0001).inValid = true ∧
      (pinsOf 0b0001).rst = false ∧ (pinsOf 0b0001).srcErr = false ∧ (pinsOf 0b0001).stop = false ∧
      (withPins State.reset 0b0001).source = [] := by decide
theorem wit_DecodeOfEncodeIsIdentity :
    (Instr.idxAccept 0xF9).wellFormed = true ∧ (Instr.idxAccept 0xF9).selectedIn .readIndex 31 = true ∧
      (Instr.rdSlot 511).wellFormed = true ∧ (Instr.rdSlot 511).selectedIn .unused7 31 = true := by decide
theorem wit_DecodedOperationsAreWellFormed :
    decode .readIndex 0 (.cycle 0b0001 0xF9) = .ok (.idxAccept 0xF9) ∧ (Instr.idxAccept 0xF9).format ≠ .ctrl :=
  ⟨rfl, by decide⟩
theorem wit_StepRunsDecodedOperation :
    decode (framed .readIndex 0 0xF9).st (framed .readIndex 0 0xF9).cnt (framed .readIndex 0 0xF9).inputWord =
        .ok (.idxAccept 0xF9) ∧
      decode (framed .unused6 0 0).st (framed .unused6 0 0).cnt (framed .unused6 0 0).inputWord =
        .error .unusedFramingState := ⟨rfl, rfl⟩
/-- A consumer read in a running state, for the step and what it reports. -/
theorem wit_ReadStepsReportNothing :
    { framed .readPacket 9 0 with inputs := [.readSlot 21] }.input = .readSlot 21 ∧
      { framed .readPacket 9 0 with inputs := [.readStatus] }.input = .readStatus := by decide
theorem wit_PlacedWordRunsNext :
    decodeTableWord 8 0xFF = some (.seekDiscard 0xFF) ∧ decodeTableWord 24 (2 ^ 20 + 511) = some (.rdSlot 511) := by decide
theorem wit_cycleStep :
    ∃ t, (beforeCkHi 0x3F).input = .cycle Pins.quiet ∧ step (beforeCkHi 0x3F) = .next t ∧ t.out.consumed = true :=
  ⟨_, rfl, rfl, rfl⟩
theorem wit_reset_Inv : State.reset.Inv := ⟨rfl, rfl, by decide, by decide, by decide, fun _ => rfl⟩
theorem wit_invariant_mid_packet : (beforeCkHi 0x3F).Inv := ⟨rfl, rfl, by decide, by decide, by decide, fun _ => rfl⟩
theorem wit_invariant_after_commit : afterP1.Inv :=
  ⟨rfl, rfl, by decide, by decide, by decide, fun h => by cases h⟩
theorem wit_StepKeepsInvariant : ∃ t, (beforeCkHi 0x3F).Inv ∧ step (beforeCkHi 0x3F) = .next t :=
  ⟨_, wit_invariant_mid_packet, rfl⟩
theorem wit_execNext :
    ∃ t u, exec (.ckHi 0x3F) (beforeCkHi 0x3F) = .next t ∧ t.out.evt = .pktOk ∧
      exec (.ckHi 0x3E) (beforeCkHi 0x3E) = .next u ∧ u.out.evt = .pktBad := ⟨_, _, rfl, rfl, rfl, rfl⟩
theorem wit_HaltIsLeftOnlyByReset :
    ∃ t, (framed .fault 0 0xFA).st = .fault ∧ step (framed .fault 0 0xFA) = .next t := ⟨_, rfl, rfl⟩
theorem wit_FramingIgnoresPublishedState :
    (beforeCkHi 0x3F).sameFraming { beforeCkHi 0x3F with tbl := [(0, sentinel)], errCnt := 9 } :=
  ⟨rfl, rfl, rfl, rfl, rfl, rfl, rfl⟩
theorem wit_framingFault : step (framed .readPacket 18 0) = .fault .bodyIndexOutOfRange := rfl
theorem wit_CommitIgnoresOldTable :
    ∃ t u, exec (.ckHi 0x3F) (beforeCkHi 0x3F) = .next t ∧
      exec (.ckHi 0x3F) { beforeCkHi 0x3F with tbl := [(20, sentinel)] } = .next u ∧ atAngle 23 (beforeCkHi 0x3F).blk 3 :=
  ⟨_, _, rfl, rfl, rfl⟩
theorem wit_NoMarkerNoUpdate :
    (framed .seekStart 0 0xA0).st = .seekStart ∧ (∀ x ∈ (framed .seekStart 0 0xA0).source, x ≠ 0xFA) ∧
      { framed .seekStart 0 0xA0 with inputs := [.cycle (pinsOf 0), .readStatus, .cycle (pinsOf 1)] }.noControl = true := by
  decide
theorem wit_MarkerRunStaysInReadIndex :
    (framed .readIndex 0 0xFA).source = List.replicate 1 0xFA ++ [] ∧ (framed .readIndex 0 0xFA).quietFor 1 = true := by
  decide
theorem wit_PacketIsFramedAndCommitted :
    ({ State.reset with source := framePacket 89 bodyPK1 0 ++ [0xFA] } : State).quietFor 22 = true ∧
      ({ framed .readIndex 0 0 with source := (framePacket 89 bodyPK1 0).tail ++ [] } : State).quietFor 21 = true ∧
      (89 : BitVec 7).toNat ≤ 89 := by decide
theorem wit_DamagedPacketIsCaughtAndResynchronised :
    (5 : BitVec 7).toNat ≤ 89 ∧ (0xFA : Byte) ≠ bodyPK1[(5 : Fin 18)] ∧
      ({ State.reset with source := framePacket 5 (bodyPK1.set 5 0xFA) 0x3FAA } : State).quietFor 22 = true ∧
      (checksum (checksumBytes 5 bodyPK1)).setWidth 16 = 0x3FAA := by decide
/-- The inserted byte at the first and at the last place, the packet behind it valid. -/
theorem wit_InsertedByteCostsOnePacket :
    (5 : BitVec 7).toNat ≤ 89 ∧ 2 ≤ 2 ∧ 21 ≤ 21 ∧
      ({ State.reset with
          source := (framePacket 5 bodyPK1 0x3FAA).take 2 ++ 0xFA :: (framePacket 5 bodyPK1 0x3FAA).drop 2 ++
            (framePacket 5 bodyPK1 0x3FAA ++ []) } : State).quietFor 45 = true ∧
      ({ State.reset with
          source := (framePacket 5 bodyPK1 0x3FAA).take 21 ++ 0xFA :: (framePacket 5 bodyPK1 0x3FAA).drop 21 ++
            (framePacket 5 bodyPK1 0x3FAA ++ []) } : State).quietFor 45 = true := by decide
theorem wit_DamagedIndexByteIsCaught :
    (89 : BitVec 7).toNat ≤ 89 ∧ (89 : BitVec 7) ≠ 5 ∧
      ({ State.reset with
          source := framePacket 89 bodyPK1 ((checksum (checksumBytes 5 bodyPK1)).setWidth 16) ++ [] } : State).quietFor
        22 = true := by decide
theorem wit_PacketStatesReturnWithin20Bytes :
    (beforeCkHi 0x3F).Inv ∧ (beforeCkHi 0x3F).st = .readChecksum ∧ 1 = 2 - (beforeCkHi 0x3F).cnt.toNat ∧
      1 ≤ (beforeCkHi 0x3F).source.length ∧ (beforeCkHi 0x3F).quietFor 1 = true ∧
      ({ State.reset with st := .readPacket, source := List.replicate 20 0 } : State).quietFor 20 = true :=
  ⟨wit_invariant_mid_packet, rfl, rfl, by decide, rfl, rfl⟩

end Sys2Proof.Tests
end

section
/-! PROOFS. Family `10_state.md`: the write matrix (R33) and the return from the packet states (R23). -/

namespace Sys2Proof.Proofs

open Sys2Proof.Machine Sys2Proof.Claims

/-! ### The ways each operation with a case split goes on -/

/-- BODY_BYTE goes on only with a register of `buf` to write, and writes `st`, `cnt` and `buf`. -/
theorem execBodyByte_next {x : Byte} {s t : State} (h : execBodyByte x s = .next t) :
    ∃ st cnt buf, t = { s.takeByte with st := st, cnt := cnt, buf := buf } := by
  by_cases hc : s.cnt.toNat < 18
  · rw [execBodyByte_of_lt x s hc] at h
    cases h
    exact ⟨_, _, _, rfl⟩
  · rw [execBodyByte_of_ge x s hc] at h
    cases h

/-- SRC_ERR enters FAULT or does nothing. -/
theorem execSrcErr_next {s t : State} (h : execSrcErr s = .next t) :
    t = s.enterHalt .fault .srcFault ∨ t = s.noEffect := by
  unfold execSrcErr at h
  split at h <;> cases h <;> simp

/-- STOP enters STOPPED or does nothing. -/
theorem execStop_next {s t : State} (h : execStop s = .next t) :
    t = s.enterHalt .stopped .stopAck ∨ t = s.noEffect := by
  unfold execStop at h
  split at h <;> cases h <;> simp

/-! ### The write matrix -/

/-- From `s` to `t` every state element whose column is blank in the row `r` of R33 is unchanged. -/
structure BlankColumnsKept (r : WriteRow) (s t : State) : Prop where
  st    : r.st = false → t.st = s.st
  blk   : r.blk = false → t.blk = s.blk
  cnt   : r.cnt = false → t.cnt = s.cnt
  buf   : r.buf = false → t.buf = s.buf
  cklo  : r.cklo = false → t.cklo = s.cklo
  tbl   : r.tbl = false → t.tbl = s.tbl
  speed : r.speed = false → t.speedRaw = s.speedRaw ∧ t.speedValid = s.speedValid
  err   : r.err = false → t.errCnt = s.errCnt

/-- Consuming a byte, or doing nothing, keeps every column of every row. -/
theorem takeByte_keeps_columns (r : WriteRow) (s : State) : BlankColumnsKept r s s.takeByte := by
  constructor <;> simp

theorem noEffect_keeps_columns (r : WriteRow) (s : State) : BlankColumnsKept r s s.noEffect := by
  constructor <;> simp

/-- R33, for CK_HI its two rows together. -/
theorem exec_keeps_blank_columns {i : Instr} {s t : State} (h : exec i s = .next t) :
    BlankColumnsKept (writeMatrix i) s t := by
  cases i with
  | seekDiscard x | idxRemark x => cases h; exact takeByte_keeps_columns _ s
  | haltedByte x | idle => cases h; exact noEffect_keeps_columns _ s
  | seekMarker x | idxAccept x | idxDiscard x | ckLo x | reset | rdSlot addr | rdStatus =>
    cases h
    constructor <;> simp [writeMatrix]
  | bodyByte x =>
    obtain ⟨st, cnt, buf, rfl⟩ := execBodyByte_next h
    constructor <;> simp [writeMatrix]
  | ckHi x =>
    obtain ⟨-, ⟨-, rfl⟩ | ⟨-, rfl⟩⟩ := execCkHi_next h <;> constructor <;> simp [writeMatrix]
  | srcErr =>
    obtain rfl | rfl := execSrcErr_next h
    · constructor <;> simp [writeMatrix]
    · exact noEffect_keeps_columns _ s
  | stop =>
    obtain rfl | rfl := execStop_next h
    · constructor <;> simp [writeMatrix]
    · exact noEffect_keeps_columns _ s

/-- R33's two rows of CK_HI: a good commit keeps the counter, a bad one the speed. -/
theorem execCkHi_keeps_by_commit {x : Byte} {s t : State} (h : execCkHi x s = .next t) :
    (t.out.evt = .pktOk ∧ t.errCnt = s.errCnt) ∨
      (t.out.evt = .pktBad ∧ t.speedRaw = s.speedRaw ∧ t.speedValid = s.speedValid) := by
  obtain ⟨-, ⟨-, rfl⟩ | ⟨-, rfl⟩⟩ := execCkHi_next h
  · exact .inl ⟨rfl, rfl⟩
  · exact .inr ⟨rfl, rfl, rfl⟩

/-- Settles O43, from the frame of each operation and the two commits of CK_HI. -/
theorem operationsWriteOnlyTheirColumns : Obligations.OperationsWriteOnlyTheirColumns := by
  intro i s t h
  obtain ⟨hst, hblk, hcnt, hbuf, hcklo, htbl, hspeed, herr⟩ := exec_keeps_blank_columns h
  refine ⟨hst, hblk, hcnt, hbuf, hcklo, htbl, hspeed, herr, ?_⟩
  rintro x rfl
  exact execCkHi_keeps_by_commit h

/-! ### Steps in which only the byte source acts -/

/-- The first of `n + 1` such steps. -/
theorem quietFor_succ_plainByte {s : State} {n : Nat} (h : s.quietFor (n + 1) = true) : s.input.plainByte = true := by
  cases hin : s.inputs with
  | nil => rw [input_nil s hin]; rfl
  | cons e rest =>
    rw [input_cons s e rest hin]
    simp only [State.quietFor, hin, List.take_succ_cons, List.all_cons, Bool.and_eq_true] at h
    exact h.1

/-- The `n` steps after it, in a state with the rest of the schedule. -/
theorem quietFor_of_succ {s t : State} {n : Nat} (h : s.quietFor (n + 1) = true) (ht : t.inputs = s.inputs.tail) :
    t.quietFor n = true := by
  cases hin : s.inputs with
  | nil => simp [State.quietFor, ht, hin]
  | cons e rest =>
    simp only [State.quietFor, hin, List.take_succ_cons, List.all_cons, Bool.and_eq_true] at h
    simpa only [State.quietFor, ht, hin, List.tail_cons] using h.2

/-- With a byte at the source and no control pin, a step runs the operation the byte selects. -/
theorem step_of_plainByte {s : State} {x : Byte} {rest : List Byte} {i : Instr} (hin : s.input.plainByte = true)
    (hsrc : s.source = x :: rest) (hi : decodeByte s.st s.cnt x = .ok i) : step s = exec i s.beginStep := by
  apply step_of_decode
  cases hp : s.input with
  | cycle p =>
    simp only [hp, Input.plainByte, Bool.and_eq_true, Bool.not_eq_true'] at hin
    obtain ⟨⟨⟨hrst, hsrcErr⟩, hstop⟩, hvalid⟩ := hin
    simp [decode_cycle s p hp, hrst, hsrcErr, hstop, State.offers, hvalid, State.inByte, hsrc, hi]
  | readSlot a => simp [hp, Input.plainByte] at hin
  | readStatus => simp [hp, Input.plainByte] at hin

/-! ### The bytes left of a packet -/

/-- R23: `n` bytes are left of the packet being received, none once the decoder is back in SEEK_START. -/
def BytesLeft (s : State) (n : Nat) : Prop :=
  s.blk.toNat < 90 ∧
    ((s.st = .seekStart ∧ n = 0) ∨ (s.st = .readPacket ∧ s.cnt.toNat ≤ 17 ∧ n + s.cnt.toNat = 20) ∨
      (s.st = .readChecksum ∧ s.cnt.toNat ≤ 1 ∧ n + s.cnt.toNat = 2))

theorem BytesLeft.le_20 {s : State} {n : Nat} (h : BytesLeft s n) : n ≤ 20 := by
  obtain ⟨-, ⟨-, hn⟩ | ⟨-, -, hn⟩ | ⟨-, -, hn⟩⟩ := h <;> omega

theorem BytesLeft.seekStart {s : State} (h : BytesLeft s 0) : s.st = .seekStart := by
  obtain ⟨-, ⟨hst, -⟩ | ⟨-, hc, hn⟩ | ⟨-, hc, hn⟩⟩ := h
  · exact hst
  · omega
  · omega

/-- The invariant bounds `cnt` in the packet states (R22) and `blk` (R24). -/
theorem bytesLeft_of_inv {s : State} {n : Nat} (hinv : s.Inv)
    (h : (s.st = .readPacket ∧ n = 20 - s.cnt.toNat) ∨ (s.st = .readChecksum ∧ n = 2 - s.cnt.toNat)) :
    BytesLeft s n := by
  have hcnt := hinv.cnt_range
  have hblk := hinv.blk_range
  refine ⟨by omega, ?_⟩
  obtain ⟨hst, rfl⟩ | ⟨hst, rfl⟩ := h <;> simp only [hst, counterInRange, decide_eq_true_eq] at hcnt
  · exact .inr (.inl ⟨hst, hcnt, by omega⟩)
  · exact .inr (.inr ⟨hst, hcnt, by omega⟩)

/-- BODY_BYTE is one byte of the packet; the one at `cnt = 17` leads to READ_CHECKSUM. -/
theorem execBodyByte_bytesLeft {s : State} {n : Nat} (x : Byte) (hst : s.st = .readPacket) (hblk : s.blk.toNat < 90)
    (hc : s.cnt.toNat ≤ 17) (hn : n + 1 + s.cnt.toNat = 20) :
    ∃ t, execBodyByte x s = .next t ∧ BytesLeft t n ∧ t.source = s.source.tail ∧ t.inputs = s.inputs := by
  refine ⟨_, execBodyByte_of_lt x s (by omega), ⟨hblk, .inr ?_⟩, rfl, rfl⟩
  by_cases h17 : s.cnt = 17
  · obtain rfl : n = 2 := by simpa [h17] using hn
    exact .inr (by simp [h17])
  · left
    have hne : s.cnt.toNat ≠ 17 := fun h => h17 (BitVec.eq_of_toNat_eq h)
    have hadd : (s.cnt + 1).toNat = s.cnt.toNat + 1 := by
      rw [BitVec.toNat_add]; exact Nat.mod_eq_of_lt (by simp; omega)
    simp only [h17, if_false, hst, hadd, true_and]
    omega

/-- CK_HI is the last byte of the packet, whichever commit it selects. -/
theorem execCkHi_bytesLeft {s : State} (x : Byte) (hblk : s.blk.toNat < 90) :
    ∃ t, execCkHi x s = .next t ∧ BytesLeft t 0 ∧ t.source = s.source.tail ∧ t.inputs = s.inputs := by
  cases hm : checksumMatches s.blk s.buf s.cklo x with
  | true => exact ⟨_, execCkHi_ok x s hblk hm, ⟨hblk, .inl ⟨rfl, rfl⟩⟩, rfl, rfl⟩
  | false => exact ⟨_, execCkHi_bad x s hblk hm, ⟨hblk, .inl ⟨rfl, rfl⟩⟩, rfl, rfl⟩

/-- R23: in a packet state every byte selects an operation, and that operation takes one byte of the packet. -/
theorem exec_packetByte_bytesLeft {s : State} {n : Nat} (x : Byte) (h : BytesLeft s (n + 1)) :
    ∃ i, decodeByte s.st s.cnt x = .ok i ∧
      ∃ t, exec i s = .next t ∧ BytesLeft t n ∧ t.source = s.source.tail ∧ t.inputs = s.inputs := by
  obtain ⟨hblk, ⟨-, hn⟩ | ⟨hst, hc, hn⟩ | ⟨hst, hc, hn⟩⟩ := h
  · omega
  · exact ⟨.bodyByte x, by simp [hst, decodeByte], execBodyByte_bytesLeft x hst hblk hc hn⟩
  · by_cases h0 : s.cnt = 0
    · obtain rfl : n = 1 := by simpa [h0] using hn
      exact ⟨.ckLo x, by simp [hst, decodeByte, h0], _, rfl, ⟨hblk, .inr (.inr ⟨hst, le_rfl, rfl⟩)⟩, rfl, rfl⟩
    · have hne : s.cnt.toNat ≠ 0 := fun h => h0 (BitVec.eq_of_toNat_eq h)
      obtain rfl : n = 0 := by omega
      exact ⟨.ckHi x, by simpa [hst, decodeByte] using h0, execCkHi_bytesLeft x hblk⟩

/-- R23: an offered byte advances a packet state by one byte. -/
theorem step_bytesLeft {s : State} {n : Nat} {x : Byte} {rest : List Byte} (h : BytesLeft s (n + 1))
    (hin : s.input.plainByte = true) (hsrc : s.source = x :: rest) :
    ∃ t, step s = .next t ∧ BytesLeft t n ∧ t.source = rest ∧ t.inputs = s.inputs.tail := by
  have hbegin : BytesLeft s.beginStep (n + 1) := by simpa [BytesLeft] using h
  obtain ⟨i, hi, t, hexec, ht, htsrc, htin⟩ := exec_packetByte_bytesLeft x hbegin
  rw [beginStep_st, beginStep_cnt] at hi
  exact ⟨t, (step_of_plainByte hin hsrc hi).trans hexec, ht, by simp [htsrc, hsrc], by simp [htin]⟩

/-- The bytes left, offered without interruption, lead to SEEK_START and are exactly those consumed. -/
theorem runSteps_bytesLeft {n : Nat} {s : State} (h : BytesLeft s n) (hlen : n ≤ s.source.length)
    (hq : s.quietFor n = true) :
    ∃ t, runSteps n s = .next t ∧ BytesLeft t 0 ∧ t.source = s.source.drop n := by
  induction n generalizing s with
  | zero => exact ⟨s, rfl, h, rfl⟩
  | succ n ih =>
    obtain ⟨x, rest, hsrc⟩ := List.exists_cons_of_length_pos (Nat.lt_of_lt_of_le n.succ_pos hlen)
    obtain ⟨u, hstep, hu, husrc, huin⟩ := step_bytesLeft h (quietFor_succ_plainByte hq) hsrc
    have hulen : n ≤ u.source.length := by simpa [husrc, hsrc] using hlen
    obtain ⟨t, hrun, ht, htsrc⟩ := ih hu hulen (quietFor_of_succ hq huin)
    exact ⟨t, (runSteps_succ hstep).trans hrun, ht, by rw [htsrc, husrc, hsrc, List.drop_succ_cons]⟩

/-- Settles O52, by induction on the bytes left of the packet. -/
theorem packetStatesReturnWithin20Bytes : Obligations.PacketStatesReturnWithin20Bytes := by
  intro s n hinv hstate hlen hq
  have hleft := bytesLeft_of_inv hinv hstate
  obtain ⟨t, hrun, ht, hsrc⟩ := runSteps_bytesLeft hleft hlen hq
  exact ⟨hleft.le_20, t, hrun, ht.seekStart, hsrc⟩

end Sys2Proof.Proofs
end

section
/-! PROOFS. Family `20_memory.md`: the consumer reads (R46, R47), the ports in the cycle of a step (R48) and the
independence of the framing from the published state (R53). -/

namespace Sys2Proof.Proofs

open Sys2Proof.Machine Sys2Proof.Claims

/-! ### The framing part of a state -/

/-- The state with all that R53 says the framing never depends on cleared: the table, the speed and the counter, and of
the outputs those that show them or the pins. `framingPart_eq_iff` says what is left. -/
def framingPart (s : State) : State :=
  { s with
    tbl        := []
    speedRaw   := 0
    speedValid := false
    errCnt     := 0
    out        := { Outputs.initial with consumed := s.out.consumed, evt := s.out.evt, evtBlk := s.out.evtBlk } }

/-- The framing part of what a step answers: of the next state, and the reason of a stop. -/
def framingOutcome : Host.Outcome State Fault Refusal → Host.Outcome State Fault Refusal
  | .next s => .next (framingPart s)
  | .fault f => .fault f
  | .refused r => .refused r

@[simp] theorem framingPart_st (s : State) : (framingPart s).st = s.st := rfl

theorem framingPart_eq_iff {s t : State} :
    framingPart s = framingPart t ↔
      s.sameFraming t ∧ t.out.consumed = s.out.consumed ∧ t.out.evt = s.out.evt ∧ t.out.evtBlk = s.out.evtBlk := by
  simp only [framingPart, State.sameFraming, State.mk.injEq, Outputs.mk.injEq]
  constructor
  · rintro ⟨hst, hblk, hcnt, hbuf, hcklo, -, -, -, -, hsource, hinputs, -, hconsumed, hevt, hevtBlk, -⟩
    simp only [hst, hblk, hcnt, hbuf, hcklo, hsource, hinputs, hconsumed, hevt, hevtBlk, and_self]
  · rintro ⟨⟨hst, hblk, hcnt, hbuf, hcklo, hsource, hinputs⟩, hconsumed, hevt, hevtBlk⟩
    simp only [hst, hblk, hcnt, hbuf, hcklo, hsource, hinputs, hconsumed, hevt, hevtBlk, and_self]

theorem framingOutcome_eq_next {o : Host.Outcome State Fault Refusal} {s : State}
    (h : framingOutcome o = .next (framingPart s)) : ∃ t, o = .next t ∧ framingPart t = framingPart s := by
  cases o with
  | next t => exact ⟨t, rfl, Host.Outcome.next.inj h⟩
  | fault f => cases h
  | refused r => cases h

theorem framingOutcome_eq_fault {o : Host.Outcome State Fault Refusal} {f : Fault}
    (h : framingOutcome o = .fault f) : o = .fault f := by
  cases o with
  | next t => cases h
  | fault g => exact h
  | refused r => cases h

/-! ### The framing ignores the published state -/

/-- R53 for one operation: cleared of the published state, the state gives the same framing part. -/
theorem framingOutcome_exec_framingPart (i : Instr) (s : State) :
    framingOutcome (exec i (framingPart s)) = framingOutcome (exec i s) := by
  cases i with
  | seekMarker x | seekDiscard x | idxAccept x | idxRemark x | idxDiscard x | ckLo x | haltedByte x | reset | idle
  | rdSlot addr | rdStatus => rfl
  | bodyByte x =>
    change framingOutcome (execBodyByte x (framingPart s)) = framingOutcome (execBodyByte x s)
    by_cases hc : s.cnt.toNat < 18
    · rw [execBodyByte_of_lt x s hc, execBodyByte_of_lt x (framingPart s) hc]; rfl
    · rw [execBodyByte_of_ge x s hc, execBodyByte_of_ge x (framingPart s) hc]
  | ckHi x =>
    change framingOutcome (execCkHi x (framingPart s)) = framingOutcome (execCkHi x s)
    by_cases hb : s.blk.toNat < 90
    · cases hm : checksumMatches s.blk s.buf s.cklo x with
      | true => rw [execCkHi_ok x s hb hm, execCkHi_ok x (framingPart s) hb hm]; rfl
      | false => rw [execCkHi_bad x s hb hm, execCkHi_bad x (framingPart s) hb hm]; rfl
    · rw [execCkHi_stop x s hb, execCkHi_stop x (framingPart s) hb]
  | srcErr =>
    simp only [exec, execSrcErr, framingPart_st]
    cases s.st <;> rfl
  | stop =>
    simp only [exec, execStop, framingPart_st]
    cases s.st <;> rfl

theorem framingOutcome_exec_congr {s t : State} (i : Instr) (h : framingPart s = framingPart t) :
    framingOutcome (exec i s) = framingOutcome (exec i t) := by
  rw [← framingOutcome_exec_framingPart i s, h, framingOutcome_exec_framingPart i t]

/-- A step begins with its report empty, whatever its input. -/
theorem beginStep_reports_nothing (s : State) :
    s.beginStep.out.consumed = false ∧ s.beginStep.out.evt = .none ∧ s.beginStep.out.evtBlk = 0 := by
  unfold State.beginStep
  split <;> exact ⟨rfl, rfl, rfl⟩

theorem framingPart_beginStep_congr {s t : State} (h : s.sameFraming t) :
    framingPart s.beginStep = framingPart t.beginStep := by
  obtain ⟨hcs, hes, hbs⟩ := beginStep_reports_nothing s
  obtain ⟨hct, het, hbt⟩ := beginStep_reports_nothing t
  obtain ⟨hst, hblk, hcnt, hbuf, hcklo, hsource, hinputs⟩ := h
  refine framingPart_eq_iff.mpr ⟨?_, hct.trans hcs.symm, het.trans hes.symm, hbt.trans hbs.symm⟩
  simp [State.sameFraming, hst, hblk, hcnt, hbuf, hcklo, hsource, hinputs]

/-- The input a step decodes is taken from the schedule and the source alone. -/
theorem inputWord_congr {s t : State} (hsource : t.source = s.source) (hinputs : t.inputs = s.inputs) :
    t.inputWord = s.inputWord := by
  simp only [State.inputWord, State.input, State.controlVector, State.offers, State.inByte, hsource, hinputs]

/-- R53 for one step. -/
theorem framingOutcome_step_congr {s t : State} (h : s.sameFraming t) :
    framingOutcome (step s) = framingOutcome (step t) := by
  have hbegin := framingPart_beginStep_congr h
  obtain ⟨hst, -, hcnt, -, -, hsource, hinputs⟩ := h
  have hdecode : decode t.st t.cnt t.inputWord = decode s.st s.cnt s.inputWord := by
    rw [hst, hcnt, inputWord_congr hsource hinputs]
  cases hd : decode s.st s.cnt s.inputWord with
  | error e => rw [step_of_error hd, step_of_error (hdecode.trans hd)]
  | ok i =>
    rw [step_of_decode hd, step_of_decode (hdecode.trans hd)]
    exact framingOutcome_exec_congr i hbegin

/-- Settles O46: the framing part of a step is a function of the framing part of the state. -/
theorem framingIgnoresPublishedState : Obligations.FramingIgnoresPublishedState := by
  intro s t hst
  have hstep := framingOutcome_step_congr hst
  constructor
  · intro s' hs
    rw [hs] at hstep
    obtain ⟨t', ht, hpart⟩ := framingOutcome_eq_next hstep.symm
    exact ⟨t', ht, framingPart_eq_iff.mp hpart.symm⟩
  · intro f hs
    rw [hs] at hstep
    exact framingOutcome_eq_fault hstep.symm

/-! ### The ports in the cycle of a step -/

/-- Of the outputs, an operation of the block writes only what it reports. -/
theorem exec_keeps_ports {i : Instr} {s t : State} (h : exec i s = .next t) (hi : i.format ≠ .port) :
    ∃ c e b, t.out = { s.out with consumed := c, evt := e, evtBlk := b } := by
  cases i with
  | seekMarker x | seekDiscard x | idxAccept x | idxRemark x | idxDiscard x | ckLo x | haltedByte x | reset | idle =>
    cases h; exact ⟨_, _, _, rfl⟩
  | bodyByte x => obtain ⟨st, cnt, buf, rfl⟩ := execBodyByte_next h; exact ⟨_, _, _, rfl⟩
  | ckHi x => obtain ⟨-, ⟨-, rfl⟩ | ⟨-, rfl⟩⟩ := execCkHi_next h <;> exact ⟨_, _, _, rfl⟩
  | srcErr => obtain rfl | rfl := execSrcErr_next h <;> exact ⟨_, _, _, rfl⟩
  | stop => obtain rfl | rfl := execStop_next h <;> exact ⟨_, _, _, rfl⟩
  | rdSlot addr | rdStatus => exact absurd rfl hi

theorem decodeByte_format {st : Framing} {cnt : BitVec 5} {x : Byte} {i : Instr}
    (h : decodeByte st cnt x = .ok i) : i.format = .byte := by
  cases st with
  | seekStart | readIndex | readChecksum => cases h; split_ifs <;> rfl
  | readPacket | fault | stopped => cases h; rfl
  | unused6 | unused7 => cases h

/-- A cycle of the block decodes to no consumer read. -/
theorem decode_cycle_not_port {s : State} {p : Pins} {i : Instr} (hp : s.input = .cycle p)
    (h : decode s.st s.cnt s.inputWord = .ok i) : i.format ≠ .port := by
  rw [decode_cycle s p hp] at h
  split_ifs at h with hrst hsrcErr hstop hoffers
  · cases h; decide
  · cases h; decide
  · cases h; decide
  · rw [decodeByte_format h]; decide
  · cases h; decide

/-- A cycle that goes on leaves its ports as the step set them at its beginning. -/
theorem step_cycle_out {s t : State} {p : Pins} (hp : s.input = .cycle p) (h : step s = .next t) :
    ∃ c e b, t.out = { s.ports p with consumed := c, evt := e, evtBlk := b } := by
  obtain ⟨i, hi, hexec⟩ := step_next h
  rw [← beginStep_out_cycle s p hp]
  exact exec_keeps_ports hexec (decode_cycle_not_port hp hi)

/-- Settles O37: the ports are set before the operation runs, and no operation of the block writes them. -/
theorem portsShowStateBeforeStep : Obligations.PortsShowStateBeforeStep := by
  intro s t p hp h
  obtain ⟨c, e, b, hout⟩ := step_cycle_out hp h
  rw [hout]
  exact ⟨rfl, rfl, rfl, rfl⟩

/-! ### The consumer reads -/

/-- Settles O16, from the layout of the slot word. -/
theorem rdSlotAnswersSlot : Obligations.RdSlotAnswersSlot := by
  intro a s
  refine ⟨slotWord (s.tbl.read a), rfl, fun hin => ?_, fun hout => ?_⟩
  · rw [read_eq, if_pos hin]
    exact ⟨slotWord_filled _, slotWord_qual _, slotWord_dist _⟩
  · rw [read_eq, if_neg (by omega)]
    rfl

/-- STATUS, bits 2..0 (R31). -/
theorem statusWord_st (st : Framing) (v : Bool) : (statusWord st v).extractLsb' 0 3 = st.code := by
  cases st <;> cases v <;> rfl

/-- STATUS, bit 3 (R31). -/
theorem statusWord_speedValid (st : Framing) (v : Bool) : (statusWord st v).getLsbD 3 = v := by
  cases st <;> cases v <;> rfl

/-- STATUS, bits 7..4 (R31). -/
theorem statusWord_hardwired (st : Framing) (v : Bool) : (statusWord st v).extractLsb' 4 4 = 0 := by
  cases st <;> cases v <;> rfl

/-- Settles O17, from the layout of STATUS and the codes of R21. -/
theorem rdStatusAnswersRegisters : Obligations.RdStatusAnswersRegisters := by
  intro s
  have hst := statusWord_st s.st s.speedValid
  have hcode (f : Framing) (h : s.st = f) : (statusWord s.st s.speedValid).extractLsb' 0 3 = f.code := h ▸ hst
  exact ⟨statusWord s.st s.speedValid, rfl, hst, hcode .seekStart, hcode .readIndex, hcode .readPacket,
    hcode .readChecksum, hcode .fault, hcode .stopped, statusWord_speedValid _ _, statusWord_hardwired _ _, rfl⟩

end Sys2Proof.Proofs
end

section
/-! PROOFS. Family `30_encoding.md`: the byte classes and their mask pairs (R68), the decode map (R67), the opcode table
(R72) and the fields of a packet (R64, R65, R71). -/

namespace Sys2Proof.Proofs

open Sys2Proof.Machine Sys2Proof.Claims Sys2Proof.Laws.EncodedRow

/-! ### The byte classes -/

theorem isIndexByte_iff (x : Byte) : isIndexByte x = true ↔ 0xA0 ≤ x.toNat ∧ x.toNat ≤ 0xF9 := by
  simp

theorem isMarker_iff (x : Byte) : isMarker x = true ↔ x = 0xFA := by
  simp

theorem isMarker_eq_false_of_isIndexByte {x : Byte} (h : isIndexByte x = true) : isMarker x = false := by
  rw [← Bool.not_eq_true, isMarker_iff]
  rintro rfl
  cases h

/-- The index range and the marker are one interval, so the bytes of neither class are the two ends beside it. -/
theorem neither_iff (x : Byte) :
    (!isIndexByte x && !isMarker x) = true ↔ x.toNat ≤ 0x9F ∨ 0xFB ≤ x.toNat := by
  have hmarker : x = 0xFA ↔ x.toNat = 0xFA := BitVec.toNat_inj.symm
  rw [Bool.and_eq_true, Bool.not_eq_true', Bool.not_eq_true', ← Bool.not_eq_true, ← Bool.not_eq_true,
    isIndexByte_iff, isMarker_iff, hmarker]
  omega

/-! ### The mask pairs -/

/-- R68: a byte lies in the pairs of a class exactly when it is of the class. -/
theorem inPairs_markerPairs (x : Byte) : inPairs markerPairs x = isMarker x := by
  revert x; decide

theorem inPairs_notMarkerPairs (x : Byte) : inPairs notMarkerPairs x = !isMarker x := by
  revert x; decide

theorem inPairs_indexPairs (x : Byte) : inPairs indexPairs x = isIndexByte x := by
  revert x; decide

theorem inPairs_neitherPairs (x : Byte) : inPairs neitherPairs x = (!isIndexByte x && !isMarker x) := by
  revert x; decide

/-- Two (match, mask) pairs ask for different bits where both masks look. -/
abbrev PairsDisagree (p q : Byte × Byte) : Prop := p.1 &&& q.2 ≠ q.1 &&& p.2

/-- A byte in two pairs would agree with both on the bits both masks look at. -/
theorem PairsDisagree.not_both {p q : Byte × Byte} (h : PairsDisagree p q) {x : Byte} (hp : x &&& p.2 = p.1) :
    x &&& q.2 ≠ q.1 := by
  intro hq
  apply h
  rw [← hp, ← hq, BitVec.and_assoc, BitVec.and_assoc, BitVec.and_comm p.2]

/-- R68's "no overlap": of pairs that disagree two by two, a byte lies in at most one. -/
theorem length_filter_le_one {c : List (Byte × Byte)} (h : c.Pairwise PairsDisagree) (x : Byte) :
    (c.filter fun p => x &&& p.2 == p.1).length ≤ 1 := by
  induction c with
  | nil => simp
  | cons p c ih =>
    obtain ⟨hp, hc⟩ := List.pairwise_cons.mp h
    by_cases hx : x &&& p.2 = p.1
    · have hnone : (c.filter fun q => x &&& q.2 == q.1) = [] := by
        rw [List.filter_eq_nil_iff]
        intro q hq hxq
        exact (hp q hq).not_both hx (beq_iff_eq.mp hxq)
      simp [hx, hnone]
    · simpa [hx] using ih hc

/-- The 256 byte values in two halves, each short enough to be counted by evaluation. -/
theorem length_filter_range_256 (p : Nat → Bool) :
    ((List.range 256).filter p).length = (List.range' 0 128).countP p + (List.range' 128 128).countP p := by
  rw [← List.countP_append, ← List.countP_eq_length_filter, List.range_eq_range', List.range'_append_1]

/-- Settles O29: each class's pairs are its range, the pairs disagree two by two, and the counts are evaluated. -/
theorem maskPairsAreTheRanges : Obligations.MaskPairsAreTheRanges := by
  refine ⟨fun x => ⟨?_, ?_, ?_, ?_, inPairs_any x⟩, fun x c hc => length_filter_le_one ?_ x, ?_⟩
  · rw [inPairs_indexPairs, isIndexByte_iff]
  · rw [inPairs_markerPairs, isMarker_iff]
  · rw [inPairs_neitherPairs, neither_iff]
  · rw [inPairs_notMarkerPairs, Bool.not_eq_true', ← Bool.not_eq_true, isMarker_iff]
  · revert c; decide
  · intro c n h
    simp only [List.mem_cons, Prod.mk.injEq, List.not_mem_nil, or_false] at h
    rw [length_filter_range_256]
    obtain ⟨rfl, rfl⟩ | ⟨rfl, rfl⟩ | ⟨rfl, rfl⟩ | ⟨rfl, rfl⟩ | ⟨rfl, rfl⟩ := h <;> rfl

/-! ### The decode map -/

/-- READ_INDEX sorts the byte into the three classes of R67. -/
theorem decodeByte_readIndex_index (cnt : BitVec 5) {x : Byte} (h : isIndexByte x = true) :
    decodeByte .readIndex cnt x = .ok (.idxAccept x) := by
  rw [decodeByte, if_pos h]

theorem decodeByte_readIndex_marker (cnt : BitVec 5) {x : Byte} (h : isMarker x = true) :
    decodeByte .readIndex cnt x = .ok (.idxRemark x) := by
  obtain rfl := (isMarker_iff x).mp h
  rfl

theorem decodeByte_readIndex_neither (cnt : BitVec 5) {x : Byte} (h : (!isIndexByte x && !isMarker x) = true) :
    decodeByte .readIndex cnt x = .ok (.idxDiscard x) := by
  rw [Bool.and_eq_true, Bool.not_eq_true', Bool.not_eq_true'] at h
  obtain ⟨hindex, hmarker⟩ := h
  rw [decodeByte, hindex, hmarker]
  rfl

/-- Settles O28: the vector `0001` is a byte event, which each state sorts by the classes of the map. -/
theorem decodeMapRowByRow : Obligations.DecodeMapRowByRow := by
  intro cnt x
  refine ⟨?_, fun h => ?_, fun h => ?_, fun h => ?_, fun h => ?_, rfl, ?_, ?_, rfl, rfl,
    fun st => ⟨rfl, rfl, rfl, rfl⟩⟩
  · rintro rfl; rfl
  · exact congrArg Except.ok (if_neg (mt (isMarker_iff x).mp h))
  · exact decodeByte_readIndex_index cnt ((isIndexByte_iff x).mpr h)
  · exact decodeByte_readIndex_marker cnt ((isMarker_iff x).mpr h)
  · exact decodeByte_readIndex_neither cnt ((neither_iff x).mpr h)
  · rintro rfl; rfl
  · rintro rfl; rfl

/-! ### The opcode table -/

/-- Does a row match `cnt` and the byte? With `selectedRows` this is `OpRow.holds`, see `matchingRows_eq`. -/
def rowTakes (cnt : BitVec 5) (x : Byte) (r : OpRow) : Bool :=
  decide (r.cntFrom ≤ cnt.toNat) && decide (cnt.toNat ≤ r.cntTo) && inPairs r.pairs x

/-- The rows whose control vector and state match, whatever `cnt` and the byte are. -/
def selectedRows (st : Framing) (v : ControlVector) : List OpRow :=
  opcodeTable.filter fun r => v &&& r.ctrlMask == r.ctrl && r.states.contains st

theorem matchingRows_eq (st : Framing) (cnt : BitVec 5) (v : ControlVector) (x : Byte) :
    matchingRows st cnt v x = ((selectedRows st v).filter (rowTakes cnt x)).map (·.mnemonic) := by
  rw [selectedRows, List.filter_filter, matchingRows]
  congr 2
  funext r
  simp only [OpRow.holds, rowTakes, Bool.and_assoc, Bool.and_comm]

/-- R72's matches on the control vector are the priority of R166: the first pin that is set selects its CTRL row alone,
and `in_valid` alone selects the BYTE rows of the state. -/
theorem selectedRows_eq {st : Framing} (v : ControlVector) (hst : isNamed st = true) :
    selectedRows st v =
      if v.rst then [⟨"RESET", 0b1000, 0b1000, Framing.named, 0, 31, anyPairs⟩]
      else if v.srcErr then [⟨"SRC_ERR", 0b0100, 0b1100, Framing.named, 0, 31, anyPairs⟩]
      else if v.stop then [⟨"STOP", 0b0010, 0b1110, Framing.named, 0, 31, anyPairs⟩]
      else if v.inValid then selectedRows st 0b0001
      else [⟨"IDLE", 0b0000, 0b1111, Framing.named, 0, 31, anyPairs⟩] := by
  revert v
  cases st with
  | seekStart | readIndex | readPacket | readChecksum | fault | stopped => decide
  | unused6 | unused7 => cases hst

/-- The upper end of the rows that do not restrict `cnt`. -/
theorem cnt_le_31 (cnt : BitVec 5) : cnt.toNat ≤ 31 := Nat.le_of_lt_succ cnt.isLt

/-- A row that is selected alone and restricts neither `cnt` nor the byte is the one that matches. -/
theorem matchingRows_of_single {st : Framing} {v c mask : ControlVector} {m : String} {sts : List Framing}
    (h : selectedRows st v = [⟨m, c, mask, sts, 0, 31, anyPairs⟩]) (cnt : BitVec 5) (x : Byte) :
    matchingRows st cnt v x = [m] := by
  simp [matchingRows_eq, h, rowTakes, inPairs_any, cnt_le_31]

/-- SEEK_START has one row for the marker and one for every other byte. -/
theorem matchingRows_seekStart (cnt : BitVec 5) (x : Byte) :
    matchingRows .seekStart cnt 0b0001 x = if isMarker x then ["SEEK_MARKER"] else ["SEEK_DISCARD"] := by
  have hrows : selectedRows .seekStart 0b0001 =
      [⟨"SEEK_MARKER", 0b0001, 0b1111, [.seekStart], 0, 31, markerPairs⟩,
        ⟨"SEEK_DISCARD", 0b0001, 0b1111, [.seekStart], 0, 31, notMarkerPairs⟩] := rfl
  rw [matchingRows_eq, hrows]
  cases hm : isMarker x <;>
    simp [rowTakes, inPairs_markerPairs, inPairs_notMarkerPairs, cnt_le_31, hm, -isMarker]

/-- READ_INDEX has one row for each of the three classes, of which a byte is in one only. -/
theorem matchingRows_readIndex (cnt : BitVec 5) (x : Byte) :
    matchingRows .readIndex cnt 0b0001 x =
      if isIndexByte x then ["IDX_ACCEPT"] else if isMarker x then ["IDX_REMARK"] else ["IDX_DISCARD"] := by
  have hrows : selectedRows .readIndex 0b0001 =
      [⟨"IDX_ACCEPT", 0b0001, 0b1111, [.readIndex], 0, 31, indexPairs⟩,
        ⟨"IDX_REMARK", 0b0001, 0b1111, [.readIndex], 0, 31, markerPairs⟩,
        ⟨"IDX_DISCARD", 0b0001, 0b1111, [.readIndex], 0, 31, neitherPairs⟩] := rfl
  rw [matchingRows_eq, hrows]
  cases hi : isIndexByte x with
  | true =>
    simp [rowTakes, inPairs_indexPairs, inPairs_markerPairs, inPairs_neitherPairs, cnt_le_31, hi,
      isMarker_eq_false_of_isIndexByte hi, -isMarker, -isIndexByte]
  | false =>
    cases hm : isMarker x <;>
      simp [rowTakes, inPairs_indexPairs, inPairs_markerPairs, inPairs_neitherPairs, cnt_le_31, hi, hm, -isMarker,
        -isIndexByte]

/-- READ_PACKET has one row, which asks for a register of `buf`. -/
theorem matchingRows_readPacket {cnt : BitVec 5} (hcnt : cnt.toNat ≤ 17) (x : Byte) :
    matchingRows .readPacket cnt 0b0001 x = ["BODY_BYTE"] := by
  have hrows : selectedRows .readPacket 0b0001 =
      [⟨"BODY_BYTE", 0b0001, 0b1111, [.readPacket], 0, 17, anyPairs⟩] := rfl
  rw [matchingRows_eq, hrows]
  simp [rowTakes, inPairs_any, hcnt]

/-- READ_CHECKSUM has one row for each of its two counts. -/
theorem matchingRows_readChecksum {cnt : BitVec 5} (hcnt : cnt.toNat ≤ 1) (x : Byte) :
    matchingRows .readChecksum cnt 0b0001 x = if cnt = 0 then ["CK_LO"] else ["CK_HI"] := by
  have hrows : selectedRows .readChecksum 0b0001 =
      [⟨"CK_LO", 0b0001, 0b1111, [.readChecksum], 0, 0, anyPairs⟩,
        ⟨"CK_HI", 0b0001, 0b1111, [.readChecksum], 1, 1, anyPairs⟩] := rfl
  rw [matchingRows_eq, hrows]
  obtain rfl | rfl : cnt = 0 ∨ cnt = 1 := by bv_omega
  all_goals simp [rowTakes, inPairs_any]

/-- The rows of a byte event: the one that matches is that of the operation the byte selects. -/
theorem decodeByte_matchingRows {st : Framing} {cnt : BitVec 5} (x : Byte) (hst : isNamed st = true)
    (hcnt : counterInRange st cnt = true) :
    ∃ i, decodeByte st cnt x = .ok i ∧ matchingRows st cnt 0b0001 x = [i.mnemonic] := by
  cases st with
  | seekStart =>
    refine ⟨_, rfl, ?_⟩
    rw [matchingRows_seekStart]
    split_ifs <;> rfl
  | readIndex =>
    refine ⟨_, rfl, ?_⟩
    rw [matchingRows_readIndex]
    split_ifs <;> rfl
  | readPacket => exact ⟨_, rfl, matchingRows_readPacket (of_decide_eq_true hcnt) x⟩
  | readChecksum =>
    refine ⟨_, rfl, ?_⟩
    rw [matchingRows_readChecksum (of_decide_eq_true hcnt)]
    split_ifs <;> rfl
  | fault | stopped => exact ⟨_, rfl, matchingRows_of_single rfl cnt x⟩
  | unused6 | unused7 => cases hst

/-- Settles O30: the pins select one CTRL row or the BYTE rows of the state as the decoder does, and of these the byte
and `cnt` leave one. -/
theorem exactlyOneRowMatches : Obligations.ExactlyOneRowMatches := by
  intro st cnt v x hst hcnt
  have hrows := selectedRows_eq v hst
  rw [decode]
  split_ifs at hrows ⊢
  · exact ⟨.reset, rfl, matchingRows_of_single hrows cnt x⟩
  · exact ⟨.srcErr, rfl, matchingRows_of_single hrows cnt x⟩
  · exact ⟨.stop, rfl, matchingRows_of_single hrows cnt x⟩
  · rw [matchingRows_eq, hrows, ← matchingRows_eq]
    exact decodeByte_matchingRows x hst hcnt
  · exact ⟨.idle, rfl, matchingRows_of_single hrows cnt x⟩

/-! ### The fields of a packet -/

/-- Settles O24: both fields are little-endian words, the distance of a second byte whose flag bits are masked off. -/
theorem unpackFormulas : Obligations.UnpackFormulas := by
  intro g
  have hmask : (g.b1 &&& Config.distMask).toNat = g.b1.toNat % 64 := by
    rw [BitVec.toNat_and]
    exact Nat.and_two_pow_sub_one_eq_mod g.b1.toNat 6
  have hdist : (unpackDistance g).toNat = g.b0.toNat + 256 * (g.b1.toNat % 64) := by
    rw [unpackDistance, le16_toNat, hmask]
  have hb0 := g.b0.isLt
  exact ⟨hdist, by omega, le16_toNat g.b2 g.b3⟩

/-- Settles O26: the largest raw field, 65535, is 1023.984375 times 64. -/
theorem speedIsRawOver64 : Obligations.SpeedIsRawOver64 := by
  refine ⟨fun buf => le16_toNat buf[0] buf[1], fun raw => ?_⟩
  have hrpm : rpm raw * 64 = raw.toNat := div_mul_cancel₀ _ (by norm_num)
  have hraw : (raw.toNat : ℚ) ≤ 65535 := by exact_mod_cast Nat.le_of_lt_succ raw.isLt
  have hnonneg : (0 : ℚ) ≤ raw.toNat := raw.toNat.cast_nonneg
  exact ⟨hrpm, by linarith, by linarith⟩

/-- R42: a 16-bit value is the word of its two bytes. -/
theorem le16_loByte_hiByte (v : BitVec 16) : le16 (loByte v) (hiByte v) = v := by
  have hv := v.isLt
  have hlo : (loByte v).toNat = v.toNat % 256 := by simp [loByte]
  have hhi : (hiByte v).toNat = v.toNat / 256 % 256 := by simp [hiByte, Nat.shiftRight_eq_div_pow]
  apply BitVec.eq_of_toNat_eq
  rw [le16_toNat, hlo, hhi]
  omega

/-- R71's forced packet is the bytes the checksum covers and the forced field. -/
theorem take_20_packetForced (blk : BitVec 7) (speed : BitVec 16) (g0 g1 g2 g3 : Group) (cs : BitVec 16) :
    (packetForced blk speed g0 g1 g2 g3 cs).take 20 =
      (checksumBytes blk (packetBody speed g0 g1 g2 g3)).toList :=
  List.take_left' Vector.length_toList

/-- Settles O27: the two checksum bytes are those of the field, and the example is evaluated. -/
theorem packetPseudoOperationExpands : Obligations.PacketPseudoOperationExpands := by
  refine ⟨fun blk speed g0 g1 g2 g3 cs => ?_, fun blk speed g0 g1 g2 g3 => ?_, by decide⟩
  · refine ⟨loByte cs, hiByte cs, loByte speed, hiByte speed, le16_loByte_hiByte cs, le16_loByte_hiByte speed, ?_⟩
    rw [packetForced, framePacket, checksumBytes_toList]
    rfl
  · exact ⟨checksumBytes blk (packetBody speed g0 g1 g2 g3), _, _, rfl,
      (take_20_packetForced blk speed g0 g1 g2 g3 0).symm, (le16_loByte_hiByte _).symm⟩

end Sys2Proof.Proofs
end

section
/-! PROOFS. Family `40_framing.md`: no step stops under the invariant (R67, R90), and the byte operations with
their commits (R80 to R87). -/

namespace Sys2Proof.Proofs

open Sys2Proof.Machine Sys2Proof.Claims

/-! ### What a decoded operation is -/

/-- R67: the operation a byte selects is well formed, and the state and the counter select it. -/
theorem decodeByte_selects {st : Framing} {cnt : BitVec 5} {x : Byte} {i : Instr} (h : decodeByte st cnt x = .ok i) :
    i.wellFormed = true ∧ i.selectedIn st cnt = true := by
  cases st with
  | seekStart =>
    cases h
    split_ifs with hm
    · exact ⟨hm, rfl⟩
    · exact ⟨by simpa [Instr.wellFormed] using hm, rfl⟩
  | readIndex =>
    cases h
    split_ifs with hi hm
    · exact ⟨hi, rfl⟩
    · exact ⟨hm, rfl⟩
    · exact ⟨by simp [Instr.wellFormed, hi, hm, -isIndexByte, -isMarker], rfl⟩
  | readChecksum =>
    cases h
    split_ifs with hc
    · exact ⟨rfl, by simp [Instr.selectedIn, hc]⟩
    · exact ⟨rfl, by simpa [Instr.selectedIn] using hc⟩
  | readPacket | fault | stopped => cases h; exact ⟨rfl, rfl⟩
  | unused6 | unused7 => cases h

/-- R166: the same of every input. -/
theorem decode_selects {st : Framing} {cnt : BitVec 5} {w : InputWord} {i : Instr} (h : decode st cnt w = .ok i) :
    i.wellFormed = true ∧ i.selectedIn st cnt = true := by
  cases w with
  | cycle v x =>
    rw [decode] at h
    split_ifs at h
    · cases h; exact ⟨rfl, rfl⟩
    · cases h; exact ⟨rfl, rfl⟩
    · cases h; exact ⟨rfl, rfl⟩
    · exact decodeByte_selects h
    · cases h; exact ⟨rfl, rfl⟩
  | rdSlot addr | rdStatus => cases h; exact ⟨rfl, rfl⟩

/-- R67: in a named state every input selects an operation. -/
theorem decode_total {st : Framing} (hst : isNamed st = true) (cnt : BitVec 5) (w : InputWord) :
    ∃ i, decode st cnt w = .ok i := by
  cases hd : decode st cnt w with
  | ok i => exact ⟨i, rfl⟩
  | error e =>
    cases w with
    | cycle v x =>
      rw [decode] at hd
      split_ifs at hd
      obtain rfl | rfl := decodeByte_error hd <;> cases hst
    | rdSlot addr | rdStatus => cases hd

/-! ### Every operation keeps the invariant where it is selected -/

/-- The framing part of the invariant moves alone while the published state stays. -/
theorem inv_of_samePublished {s t : State} (h : s.Inv) (hpub : s.samePublished t) (hst : isNamed t.st = true)
    (hcnt : counterInRange t.st t.cnt = true) (hblk : t.blk.toNat ≤ 89) : t.Inv := by
  obtain ⟨htbl, hraw, hvalid, -⟩ := hpub
  exact ⟨hst, hcnt, hblk, htbl ▸ h.tbl_wf, htbl ▸ h.slots_legal, hraw ▸ hvalid ▸ h.speed_held⟩

theorem beginStep_samePublished (s : State) : s.samePublished s.beginStep := by
  simp [State.samePublished]

theorem beginStep_inv {s : State} (h : s.Inv) : s.beginStep.Inv :=
  inv_of_samePublished h (beginStep_samePublished s) (by simpa using h.st_named) (by simpa using h.cnt_range)
    (by simpa using h.blk_range)

/-- R124: what a commit writes is legal. -/
theorem decodedSlot_legal (g : Group) : (decodedSlot g).legal = true := by
  have hdist : (unpackDistance g).toNat ≤ 0x3FFF := (unpackFormulas g).2.1
  simp [Slot.legal, decodedSlot, hdist]

/-- R122, R124. -/
theorem sentinel_legal : sentinel.legal = true := rfl

theorem writeBlock_slots_legal {tbl : Table} {blk : BitVec 7} {slots : Vector Slot 4}
    (hslots : ∀ k (hk : k < 4), slots[k].legal = true) (htbl : ∀ p ∈ tbl, p.2.legal = true) :
    ∀ p ∈ tbl.writeBlock blk slots, p.2.legal = true := by
  intro p hp
  obtain ⟨k, hk, hpk⟩ | hp := mem_writeBlock hp
  · rw [hpk]; exact hslots k hk
  · exact htbl p hp

/-- IDX_ACCEPT of an index byte takes a block of the table (R63). -/
theorem idxAccept_blk {x : Byte} (h : isIndexByte x = true) :
    ((x - Config.idxBase).setWidth 7).toNat = x.toNat - 0xA0 := by
  obtain ⟨hlo, hhi⟩ := (isIndexByte_iff x).mp h
  simp only [Config.idxBase]
  bv_omega

theorem commitOk_inv {s : State} (h : s.Inv) : s.commitOk.Inv where
  st_named := h.st_named
  cnt_range := h.cnt_range
  blk_range := h.blk_range
  tbl_wf := by
    rw [commitOk_tbl]
    exact writeBlock_wf _ _ _ (Nat.lt_succ_of_le h.blk_range) h.tbl_wf
  slots_legal := by
    rw [commitOk_tbl]
    exact writeBlock_slots_legal (fun k hk => by simp [decodedSlots, decodedSlot_legal]) h.slots_legal
  speed_held := by simp

theorem commitBad_inv {s : State} (h : s.Inv) : s.commitBad.Inv where
  st_named := h.st_named
  cnt_range := h.cnt_range
  blk_range := h.blk_range
  tbl_wf := by
    rw [commitBad_tbl]
    exact writeBlock_wf _ _ _ (Nat.lt_succ_of_le h.blk_range) h.tbl_wf
  slots_legal := by
    rw [commitBad_tbl]
    exact writeBlock_slots_legal (fun k hk => by simp [sentinel_legal]) h.slots_legal
  speed_held := h.speed_held

theorem resetBlock_inv (s : State) : s.resetBlock.Inv :=
  ⟨rfl, rfl, Nat.zero_le _, reset_tbl_wf, by simp, fun _ => rfl⟩

theorem execBodyByte_keeps_inv {s : State} (x : Byte) (h : s.Inv) (hst : s.st = .readPacket) :
    ∃ t, execBodyByte x s = .next t ∧ t.Inv := by
  have hcnt : s.cnt.toNat ≤ 17 := by simpa [hst, counterInRange] using h.cnt_range
  rw [execBodyByte_of_lt x s (by omega)]
  by_cases h17 : s.cnt = 17
  · rw [if_pos h17, if_pos h17]
    exact ⟨_, rfl, inv_of_samePublished h ⟨rfl, rfl, rfl, rfl⟩ rfl rfl h.blk_range⟩
  · rw [if_neg h17, if_neg h17]
    have hnext : counterInRange s.st (s.cnt + 1) = true := by
      rw [hst]
      exact decide_eq_true (by bv_omega)
    exact ⟨_, rfl, inv_of_samePublished h ⟨rfl, rfl, rfl, rfl⟩ h.st_named hnext h.blk_range⟩

theorem execCkHi_keeps_inv {s : State} (x : Byte) (h : s.Inv) : ∃ t, execCkHi x s = .next t ∧ t.Inv := by
  have hblk : s.blk.toNat < 90 := Nat.lt_succ_of_le h.blk_range
  have hconsume : s.consume.Inv := inv_of_samePublished h ⟨rfl, rfl, rfl, rfl⟩ h.st_named h.cnt_range h.blk_range
  cases hm : checksumMatches s.blk s.buf s.cklo x with
  | true =>
    exact ⟨_, execCkHi_ok x s hblk hm,
      inv_of_samePublished (commitOk_inv hconsume) ⟨rfl, rfl, rfl, rfl⟩ rfl rfl h.blk_range⟩
  | false =>
    exact ⟨_, execCkHi_bad x s hblk hm,
      inv_of_samePublished (commitBad_inv hconsume) ⟨rfl, rfl, rfl, rfl⟩ rfl rfl h.blk_range⟩

theorem enterHalt_inv {s : State} (h : s.Inv) {target : Framing} (htarget : target = .fault ∨ target = .stopped)
    (e : Evt) : (s.enterHalt target e).Inv := by
  obtain rfl | rfl := htarget <;> exact inv_of_samePublished h ⟨rfl, rfl, rfl, rfl⟩ rfl rfl h.blk_range

theorem noEffect_inv {s : State} (h : s.Inv) : s.noEffect.Inv :=
  inv_of_samePublished h ⟨rfl, rfl, rfl, rfl⟩ h.st_named h.cnt_range h.blk_range

theorem running_or_halted {st : Framing} (h : isNamed st = true) :
    isRunning st = true ∨ st = .fault ∨ st = .stopped := by
  cases st <;> simp_all [isNamed, isRunning]

/-- R90: an operation where it is selected goes on and keeps the invariant; the commits and RESET alone touch more of it
than the framing part. -/
theorem exec_keeps_inv {i : Instr} {s : State} (h : s.Inv) (hwf : i.wellFormed = true)
    (hsel : i.selectedIn s.st s.cnt = true) : ∃ t, exec i s = .next t ∧ t.Inv := by
  have hcnt := h.cnt_range
  have hkeeps {t : State} := inv_of_samePublished (t := t) h
  cases i with
  | seekDiscard x | idxRemark x =>
    exact ⟨_, rfl, hkeeps ⟨rfl, rfl, rfl, rfl⟩ h.st_named hcnt h.blk_range⟩
  | seekMarker x | idxDiscard x =>
    rw [beq_iff_eq.mp hsel] at hcnt
    exact ⟨_, rfl, hkeeps ⟨rfl, rfl, rfl, rfl⟩ rfl hcnt h.blk_range⟩
  | idxAccept x =>
    refine ⟨_, rfl, hkeeps ⟨rfl, rfl, rfl, rfl⟩ rfl rfl ?_⟩
    have hx := (isIndexByte_iff x).mp hwf
    exact (idxAccept_blk hwf).trans_le (by omega)
  | bodyByte x => exact execBodyByte_keeps_inv x h (beq_iff_eq.mp hsel)
  | ckLo x =>
    simp only [Instr.selectedIn, Bool.and_eq_true, beq_iff_eq] at hsel
    exact ⟨_, rfl, hkeeps ⟨rfl, rfl, rfl, rfl⟩ h.st_named (by simp [hsel.1, counterInRange]) h.blk_range⟩
  | ckHi x => exact execCkHi_keeps_inv x h
  | haltedByte x | idle => exact ⟨_, rfl, noEffect_inv h⟩
  | reset => exact ⟨_, rfl, resetBlock_inv s⟩
  | srcErr =>
    obtain hrun | hhalt := running_or_halted h.st_named
    · exact ⟨_, execSrcErr_running s hrun, enterHalt_inv h (.inl rfl) _⟩
    · exact ⟨_, execSrcErr_halted s hhalt, noEffect_inv h⟩
  | stop =>
    obtain hrun | hhalt := running_or_halted h.st_named
    · exact ⟨_, execStop_running s hrun, enterHalt_inv h (.inr rfl) _⟩
    · exact ⟨_, execStop_halted s hhalt, noEffect_inv h⟩
  | rdSlot addr | rdStatus =>
    exact ⟨_, rfl, hkeeps ⟨rfl, rfl, rfl, rfl⟩ h.st_named hcnt h.blk_range⟩

/-- Settles O41: a named state decodes every input, and the operation selected keeps the invariant. -/
theorem stepNeverStopsUnderInvariant : Obligations.StepNeverStopsUnderInvariant := by
  intro s h
  obtain ⟨i, hi⟩ := decode_total h.st_named s.cnt s.inputWord
  obtain ⟨hwf, hsel⟩ := decode_selects hi
  rw [step_of_decode hi]
  exact exec_keeps_inv (beginStep_inv h) hwf (by simpa using hsel)

/-! ### The byte operations -/

/-- Settles O1: the marker is the one byte of its class, and SEEK_MARKER is `takeByte` with the new `st`. -/
theorem seekMarkerGoesToReadIndex : Obligations.SeekMarkerGoesToReadIndex :=
  ⟨fun _ => rfl, fun _ _ => rfl⟩

/-- Settles O2, with the second row of the decode map. -/
theorem seekDiscardDropsByte : Obligations.SeekDiscardDropsByte := by
  refine ⟨fun cnt x hx => ?_, fun _ _ => rfl⟩
  obtain ⟨-, hdiscard, -⟩ := decodeMapRowByRow cnt x
  exact hdiscard hx

/-- Settles O3: the block is the distance of the index byte from 0xA0. -/
theorem idxAcceptTakesBlock : Obligations.IdxAcceptTakesBlock := by
  intro x hlo hhi
  have hindex : isIndexByte x = true := (isIndexByte_iff x).mpr ⟨hlo, hhi⟩
  have hblk := idxAccept_blk hindex
  exact ⟨fun cnt => decodeByte_readIndex_index cnt hindex, fun s => ⟨_, hblk, by omega, rfl⟩⟩

/-- Settles O4: in READ_INDEX the marker is an operation of its own, which is `takeByte`. -/
theorem idxRemarkStays : Obligations.IdxRemarkStays :=
  ⟨fun _ => rfl, fun _ _ => rfl⟩

/-- Settles O5: the bytes below and above the index range and the marker are those of neither class. -/
theorem idxDiscardSeeksAgain : Obligations.IdxDiscardSeeksAgain :=
  ⟨fun cnt x hx => decodeByte_readIndex_neither cnt ((neither_iff x).mpr hx), fun _ _ => rfl⟩

/-- Settles O6, with both ways BODY_BYTE goes on. -/
theorem bodyByteStoresAndCounts : Obligations.BodyByteStoresAndCounts :=
  ⟨fun _ _ => rfl, execBodyByte_of_lt⟩

/-- Settles O7: in READ_CHECKSUM `cnt = 0` alone selects CK_LO, which is `takeByte` with the byte kept. -/
theorem ckLoKeepsLowByte : Obligations.CkLoKeepsLowByte :=
  ⟨fun _ => rfl, fun _ _ => rfl⟩

/-! ### The commits -/

/-- R117, R120: the slot of group `k` holds the sample in numbers. -/
theorem decodedSlots_holdsSample (buf : Vector Byte 18) (k : Fin 4) :
    holdsSample (decodedSlots buf)[k] buf k := by
  obtain ⟨hdist, -, hqual⟩ := unpackFormulas (sampleGroup buf k)
  simp only [decodedSlots, Fin.getElem_fin, Vector.getElem_ofFn, decodedSlot]
  exact ⟨rfl, hdist, hqual⟩

/-- An address that is none of a block's four angles lies outside their range. -/
theorem not_in_block {blk : BitVec 7} {a : ReadAddr} (h : ∀ k : Fin 4, ¬ atAngle a blk k) :
    ¬ (blk.toNat * 4 ≤ a.toNat ∧ a.toNat < blk.toNat * 4 + 4) := by
  rintro ⟨hlo, hhi⟩
  refine h ⟨a.toNat - blk.toNat * 4, by omega⟩ ?_
  simp only [atAngle]
  omega

/-- R120: what COMMIT_OK publishes. -/
theorem commitOk_publishesPacket {s : State} (hblk : s.blk.toNat ≤ 89) :
    publishesPacket s s.commitOk s.blk s.buf := by
  refine ⟨fun k a ha => ?_, fun a ha => ?_, le16_toNat _ _, rfl, rfl⟩
  · rw [commitOk_tbl, read_writeBlock_same _ _ _ (by omega) k k.isLt a ha]
    exact decodedSlots_holdsSample s.buf k
  · rw [commitOk_tbl, read_writeBlock_other _ _ _ a (not_in_block ha)]

/-- R121, R122: what COMMIT_BAD publishes. -/
theorem commitBad_publishesError {s : State} (hblk : s.blk.toNat ≤ 89) : publishesError s s.commitBad s.blk := by
  refine ⟨fun k a ha => ?_, fun a ha => ?_, BitVec.toNat_add _ _, rfl, rfl⟩
  · rw [commitBad_tbl, read_writeBlock_same _ _ _ (by omega) k k.isLt a ha, Vector.getElem_replicate]
    rfl
  · rw [commitBad_tbl, read_writeBlock_other _ _ _ a (not_in_block ha)]

/-- R87, R104: how the packet with block `blk`, body `body` and checksum field `cs` is committed: the comparison selects
the report and what is published. -/
def CommitsBy (s t : State) (blk : BitVec 7) (body : Vector Byte 18) (cs : BitVec 16) : Prop :=
  ((checksum (checksumBytes blk body)).setWidth 16 = cs ∧ t.out.evt = .pktOk ∧ publishesPacket s t blk body) ∨
    ((checksum (checksumBytes blk body)).setWidth 16 ≠ cs ∧ t.out.evt = .pktBad ∧ publishesError s t blk)

/-- CK_HI with a block of the table commits and is back in SEEK_START, its byte taken. -/
theorem execCkHi_commits (x : Byte) {s : State} (hblk : s.blk.toNat ≤ 89) :
    ∃ t, execCkHi x s = .next t ∧ t.st = .seekStart ∧ t.cnt = 0 ∧ t.source = s.source.tail ∧ t.inputs = s.inputs ∧
      t.blk = s.blk ∧ t.buf = s.buf ∧ t.out.consumed = true ∧ t.out.evtBlk = s.blk ∧
      CommitsBy s t s.blk s.buf (le16 s.cklo x) := by
  cases hm : checksumMatches s.blk s.buf s.cklo x with
  | true =>
    exact ⟨_, execCkHi_ok x s (by omega) hm, rfl, rfl, rfl, rfl, rfl, rfl, rfl, rfl,
      .inl ⟨eq_of_beq hm, rfl, commitOk_publishesPacket hblk⟩⟩
  | false =>
    exact ⟨_, execCkHi_bad x s (by omega) hm, rfl, rfl, rfl, rfl, rfl, rfl, rfl, rfl,
      .inr ⟨ne_of_beq_false hm, rfl, commitBad_publishesError hblk⟩⟩

/-- Settles O8: the comparison is the case split of CK_HI. -/
theorem ckHiCommitsByComparison : Obligations.CkHiCommitsByComparison := by
  refine ⟨fun _ => rfl, fun x s hblk => ?_⟩
  obtain ⟨t, hexec, hst, hcnt, hsource, -, -, -, hconsumed, hevtBlk, hcommit⟩ := execCkHi_commits x hblk
  exact ⟨t, hexec, hst, hcnt, hsource, hconsumed, hevtBlk, hcommit⟩

end Sys2Proof.Proofs
end

section
/-! PROOFS. Family `40_framing.md`: the byte streams without a marker (R88), of markers alone (R83) and of whole
packets (R89). -/

namespace Sys2Proof.Proofs

open Sys2Proof.Machine Sys2Proof.Claims

/-! ### Steps that change no register -/

/-- The registers and the published state are the same: only the source, the schedule and the outputs may differ. -/
def SameBlock (s t : State) : Prop := t = { s with source := t.source, inputs := t.inputs, out := t.out }

theorem SameBlock.refl (s : State) : SameBlock s s := rfl

theorem SameBlock.trans {s t u : State} (hst : SameBlock s t) (htu : SameBlock t u) : SameBlock s u := by
  rw [SameBlock, htu, hst]

theorem SameBlock.samePublished {s t : State} (h : SameBlock s t) : s.samePublished t := by
  rw [h]; exact ⟨rfl, rfl, rfl, rfl⟩

theorem SameBlock.registers {s t : State} (h : SameBlock s t) :
    t.st = s.st ∧ t.cnt = s.cnt ∧ t.blk = s.blk ∧ t.buf = s.buf ∧ t.cklo = s.cklo := by
  rw [h]; exact ⟨rfl, rfl, rfl, rfl, rfl⟩

theorem SameBlock.st_eq {s t : State} (h : SameBlock s t) : t.st = s.st := h.registers.1

theorem beginStep_sameBlock (s : State) : SameBlock s s.beginStep := by
  obtain ⟨o, h⟩ := beginStep_eq s
  rw [h]; rfl

/-! ### Without a marker -/

theorem noControl_input {s : State} (h : s.noControl = true) : s.input.noControl = true := by
  cases hin : s.inputs with
  | nil => rw [input_nil s hin]; rfl
  | cons e rest =>
    rw [input_cons s e rest hin]
    simp only [State.noControl, hin, List.all_cons, Bool.and_eq_true] at h
    exact h.1

theorem noControl_of_tail {s t : State} (h : s.noControl = true) (ht : t.inputs = s.inputs.tail) :
    t.noControl = true := by
  rw [State.noControl, List.all_eq_true] at h ⊢
  exact fun e he => h e (List.mem_of_mem_tail (ht ▸ he))

/-- R88: in SEEK_START, with no marker at the source and no control pin scheduled. -/
structure Seeking (s : State) : Prop where
  st         : s.st = .seekStart
  no_marker  : ∀ x ∈ s.source, x ≠ 0xFA
  no_control : s.noControl = true

/-- With no control pin and no marker, SEEK_START selects an operation that drops a byte or does nothing. -/
theorem decode_seeking {s : State} (h : Seeking s) :
    ∃ i, decode s.st s.cnt s.inputWord = .ok i ∧
      ((∃ x, i = .seekDiscard x) ∨ i = .idle ∨ (∃ a, i = .rdSlot a) ∨ i = .rdStatus) := by
  cases hin : s.input with
  | cycle p =>
    have hctl := noControl_input h.no_control
    simp only [hin, Input.noControl, Bool.and_eq_true, Bool.not_eq_true'] at hctl
    obtain ⟨⟨hrst, hsrcErr⟩, hstop⟩ := hctl
    rw [decode_cycle s p hin, hrst, hsrcErr, hstop, h.st]
    cases hsource : s.source with
    | nil => exact ⟨.idle, by simp [State.offers, hsource], .inr (.inl rfl)⟩
    | cons x rest =>
      have hx : ¬ isMarker x = true := mt (isMarker_iff x).mp (h.no_marker x (by simp [hsource]))
      cases hp : p.inValid with
      | false => exact ⟨.idle, by simp [State.offers, hp], .inr (.inl rfl)⟩
      | true =>
        exact ⟨.seekDiscard x, by simp [State.offers, hp, hsource, State.inByte, decodeByte, hx, -isMarker],
          .inl ⟨x, rfl⟩⟩
  | readSlot a => exact ⟨_, decode_readSlot s a hin, .inr (.inr (.inl ⟨a, rfl⟩))⟩
  | readStatus => exact ⟨_, decode_readStatus s hin, .inr (.inr (.inr rfl))⟩

/-- R88 for one step. -/
theorem step_seeking {s : State} (h : Seeking s) : ∃ t, step s = .next t ∧ SameBlock s t ∧ Seeking t := by
  obtain ⟨i, hi, hop⟩ := decode_seeking h
  have hgoes : ∃ t, exec i s.beginStep = .next t ∧ SameBlock s.beginStep t ∧ t.inputs = s.beginStep.inputs ∧
      (t.source = s.beginStep.source ∨ t.source = s.beginStep.source.tail) := by
    obtain ⟨x, rfl⟩ | rfl | ⟨a, rfl⟩ | rfl := hop
    · exact ⟨_, rfl, rfl, rfl, .inr rfl⟩
    · exact ⟨_, rfl, rfl, rfl, .inl rfl⟩
    · exact ⟨_, rfl, rfl, rfl, .inl rfl⟩
    · exact ⟨_, rfl, rfl, rfl, .inl rfl⟩
  obtain ⟨t, hexec, hsame, hinputs, hsource⟩ := hgoes
  have hsame' : SameBlock s t := (beginStep_sameBlock s).trans hsame
  rw [beginStep_inputs] at hinputs
  rw [beginStep_source] at hsource
  refine ⟨t, (step_of_decode hi).trans hexec, hsame', hsame'.st_eq.trans h.st, fun x hx => h.no_marker x ?_,
    noControl_of_tail h.no_control hinputs⟩
  obtain hsource | hsource := hsource <;> rw [hsource] at hx
  · exact hx
  · exact List.mem_of_mem_tail hx

/-- R88 for every run. -/
theorem runSteps_seeking {n : Nat} {s : State} (h : Seeking s) :
    ∃ t, runSteps n s = .next t ∧ SameBlock s t ∧ Seeking t := by
  induction n generalizing s with
  | zero => exact ⟨s, rfl, .refl s, h⟩
  | succ n ih =>
    obtain ⟨u, hstep, hsu, hu⟩ := step_seeking h
    obtain ⟨t, hrun, hut, ht⟩ := ih hu
    exact ⟨t, (runSteps_succ hstep).trans hrun, hsu.trans hut, ht⟩

/-- Settles O48, by induction on the steps. -/
theorem noMarkerNoUpdate : Obligations.NoMarkerNoUpdate := by
  intro n s hst hmarker hcontrol
  obtain ⟨t, hrun, hsame, ht⟩ := runSteps_seeking (n := n) ⟨hst, hmarker, hcontrol⟩
  exact ⟨t, hrun, ht.st, hsame.samePublished⟩

/-! ### Taking the offered bytes -/

/-- A run of `n` steps that takes `n` bytes from the source. -/
structure Takes (n : Nat) (s t : State) : Prop where
  run    : runSteps n s = .next t
  source : t.source = s.source.drop n
  inputs : t.inputs = s.inputs.drop n

theorem Takes.refl (s : State) : Takes 0 s s := ⟨rfl, rfl, rfl⟩

theorem Takes.trans {m n : Nat} {s t u : State} (hst : Takes m s t) (htu : Takes n t u) : Takes (m + n) s u where
  run := (runSteps_add hst.run).trans htu.run
  source := by rw [htu.source, hst.source, List.drop_drop]
  inputs := by rw [htu.inputs, hst.inputs, List.drop_drop]

/-- What is quiet for `m + n` steps is quiet for `n` after the first `m`. -/
theorem Takes.quietFor {m n : Nat} {s t : State} (h : Takes m s t) (hq : s.quietFor (m + n) = true) :
    t.quietFor n = true := by
  rw [State.quietFor, List.take_add, List.all_append, Bool.and_eq_true] at hq
  rw [State.quietFor, h.inputs]
  exact hq.2

theorem quietFor_of_le {m n : Nat} {s : State} (hq : s.quietFor n = true) (hmn : m ≤ n) : s.quietFor m = true := by
  rw [State.quietFor, List.all_eq_true] at hq ⊢
  exact fun e he => hq e (List.take_subset_take_left _ hmn he)

/-- One offered byte, taken by the operation it selects. -/
theorem takes_one {s t : State} {x : Byte} {rest : List Byte} {i : Instr} (hq : s.quietFor 1 = true)
    (hsource : s.source = x :: rest) (hi : decodeByte s.st s.cnt x = .ok i) (hexec : exec i s.beginStep = .next t)
    (htsource : t.source = s.source.tail) (htinputs : t.inputs = s.inputs.tail) : Takes 1 s t where
  run := runSteps_succ ((step_of_plainByte (quietFor_succ_plainByte hq) hsource hi).trans hexec)
  source := by rw [htsource, List.drop_one]
  inputs := by rw [htinputs, List.drop_one]

/-! ### Markers in READ_INDEX -/

/-- R83 for one marker. -/
theorem takes_marker_readIndex {s : State} {rest : List Byte} (hst : s.st = .readIndex)
    (hsource : s.source = 0xFA :: rest) (hq : s.quietFor 1 = true) : ∃ t, Takes 1 s t ∧ SameBlock s t := by
  have hi : decodeByte s.st s.cnt 0xFA = .ok (.idxRemark 0xFA) := by rw [hst]; rfl
  refine ⟨s.beginStep.takeByte, takes_one hq hsource hi rfl ?_ ?_, (beginStep_sameBlock s).trans rfl⟩ <;> simp

/-- R83, R70 for a run of markers. -/
theorem takes_markers_readIndex {n : Nat} {s : State} {rest : List Byte} (hst : s.st = .readIndex)
    (hsource : s.source = List.replicate n 0xFA ++ rest) (hq : s.quietFor n = true) :
    ∃ t, Takes n s t ∧ SameBlock s t := by
  induction n generalizing s with
  | zero => exact ⟨s, .refl s, .refl s⟩
  | succ n ih =>
    rw [List.replicate_succ, List.cons_append] at hsource
    rw [Nat.add_comm] at hq ⊢
    obtain ⟨u, htake, hsame⟩ := takes_marker_readIndex hst hsource (quietFor_of_le hq (by omega))
    have husource : u.source = List.replicate n 0xFA ++ rest := by rw [htake.source, hsource]; rfl
    obtain ⟨t, htakes, hsame'⟩ := ih (hsame.st_eq.trans hst) husource (htake.quietFor hq)
    exact ⟨t, htake.trans htakes, hsame.trans hsame'⟩

/-- Settles O49, by induction on the markers. -/
theorem markerRunStaysInReadIndex : Obligations.MarkerRunStaysInReadIndex := by
  intro n s rest hst hsource hq
  obtain ⟨t, htakes, hsame⟩ := takes_markers_readIndex hst hsource hq
  have htsource : t.source = rest := by rw [htakes.source, hsource, List.drop_left' List.length_replicate]
  obtain ⟨htst, hcnt, hblk, hbuf, hcklo⟩ := hsame.registers
  exact ⟨t, htakes.run, htst.trans hst, htsource, hcnt, hblk, hbuf, hcklo, hsame.samePublished⟩

/-! ### A packet, part by part -/

theorem samePublished_trans {s t u : State} (hst : s.samePublished t) (htu : t.samePublished u) :
    s.samePublished u := by
  obtain ⟨htbl, hraw, hvalid, herr⟩ := hst
  obtain ⟨htbl', hraw', hvalid', herr'⟩ := htu
  exact ⟨htbl'.trans htbl, hraw'.trans hraw, hvalid'.trans hvalid, herr'.trans herr⟩

/-- A commit is the same seen from any earlier state with the same published state. -/
theorem CommitsBy.of_samePublished {s t u : State} {blk : BitVec 7} {body : Vector Byte 18} {cs : BitVec 16}
    (h : CommitsBy t u blk body cs) (hpub : s.samePublished t) : CommitsBy s u blk body cs := by
  obtain ⟨htbl, hraw, hvalid, herr⟩ := hpub
  simpa only [CommitsBy, publishesPacket, publishesError, htbl, hraw, hvalid, herr] using h

/-- R80, R81: one byte in SEEK_START; the marker alone leads to READ_INDEX. -/
theorem takes_byte_seekStart {s : State} {x : Byte} {rest : List Byte} (hst : s.st = .seekStart)
    (hsource : s.source = x :: rest) (hq : s.quietFor 1 = true) :
    ∃ t, Takes 1 s t ∧ s.samePublished t ∧ t.st = if isMarker x then .readIndex else .seekStart := by
  cases hx : isMarker x with
  | true =>
    have hi : decodeByte s.st s.cnt x = .ok (.seekMarker x) := by rw [hst, decodeByte, if_pos hx]
    exact ⟨_, takes_one hq hsource hi rfl (by simp) (by simp), by simp [State.samePublished], rfl⟩
  | false =>
    have hi : decodeByte s.st s.cnt x = .ok (.seekDiscard x) := by rw [hst, decodeByte, hx]; rfl
    exact ⟨_, takes_one hq hsource hi rfl (by simp) (by simp), by simp [State.samePublished], by simp [hst]⟩

/-- The index byte of a block of the table (R63). -/
theorem indexByte_toNat {blk : BitVec 7} (hblk : blk.toNat ≤ 89) :
    (blk.setWidth 8 + 0xA0 : Byte).toNat = blk.toNat + 0xA0 := by
  bv_omega

theorem indexByte_blk {blk : BitVec 7} (hblk : blk.toNat ≤ 89) :
    (blk.setWidth 8 + 0xA0 - Config.idxBase : Byte).setWidth 7 = blk := by
  simp only [Config.idxBase]
  bv_omega

/-- R82: the index byte of a block in READ_INDEX. -/
theorem takes_index {s : State} {blk : BitVec 7} {rest : List Byte} (hblk : blk.toNat ≤ 89) (hst : s.st = .readIndex)
    (hsource : s.source = (blk.setWidth 8 + 0xA0) :: rest) (hq : s.quietFor 1 = true) :
    ∃ t, Takes 1 s t ∧ s.samePublished t ∧ t.st = .readPacket ∧ t.cnt = 0 ∧ t.blk = blk := by
  have htoNat := indexByte_toNat hblk
  have hindex : isIndexByte (blk.setWidth 8 + 0xA0) = true := (isIndexByte_iff _).mpr (by omega)
  have hi : decodeByte s.st s.cnt (blk.setWidth 8 + 0xA0) = .ok (.idxAccept (blk.setWidth 8 + 0xA0)) := by
    rw [hst, decodeByte_readIndex_index _ hindex]
  exact ⟨_, takes_one hq hsource hi rfl (by simp) (by simp), by simp [State.samePublished], rfl, rfl,
    indexByte_blk hblk⟩

/-- R85: `k` bytes of the body are received, in READ_PACKET while there are more to come. -/
structure HoldsBody (blk : BitVec 7) (body : Vector Byte 18) (k : Nat) (s : State) : Prop where
  blk_eq  : s.blk = blk
  place   : (k < 18 ∧ s.st = .readPacket ∧ s.cnt.toNat = k) ∨ (k = 18 ∧ s.st = .readChecksum ∧ s.cnt = 0)
  buf_eq  : ∀ i (hi : i < 18), i < k → s.buf[i] = body[i]

theorem HoldsBody.buf_eq_body {blk : BitVec 7} {body : Vector Byte 18} {s : State} (h : HoldsBody blk body 18 s) :
    s.buf = body :=
  Vector.ext fun i hi => h.buf_eq i hi hi

/-- R85 for one byte. -/
theorem execBodyByte_holdsBody {s : State} {blk : BitVec 7} {body : Vector Byte 18} {k : Nat} (hk : k < 18)
    (h : HoldsBody blk body k s) :
    ∃ t, execBodyByte body[k] s = .next t ∧ HoldsBody blk body (k + 1) t ∧ s.samePublished t ∧
      t.source = s.source.tail ∧ t.inputs = s.inputs := by
  obtain ⟨hblk, ⟨-, hst, rfl⟩ | ⟨rfl, -⟩, hbuf⟩ := h
  · refine ⟨_, execBodyByte_of_lt _ s hk, ⟨hblk, ?_, fun i hi hik => ?_⟩, ⟨rfl, rfl, rfl, rfl⟩, rfl, rfl⟩
    · by_cases h17 : s.cnt = 17
      · right; simp [h17]
      · left
        simp only [h17, hst, if_false, true_and]
        bv_omega
    · by_cases heq : s.cnt.toNat = i
      · simp [← heq]
      · simp [heq, hbuf i hi (by omega)]
  · omega

theorem takes_bodyByte {s : State} {blk : BitVec 7} {body : Vector Byte 18} {k : Nat} {rest : List Byte} (hk : k < 18)
    (h : HoldsBody blk body k s) (hsource : s.source = body[k] :: rest) (hq : s.quietFor 1 = true) :
    ∃ t, Takes 1 s t ∧ s.samePublished t ∧ HoldsBody blk body (k + 1) t := by
  have hbegin : HoldsBody blk body k s.beginStep := by
    obtain ⟨hblk, hplace, hbuf⟩ := h
    constructor <;> simpa
  have hi : decodeByte s.st s.cnt body[k] = .ok (.bodyByte body[k]) := by
    obtain ⟨-, hst, -⟩ | ⟨rfl, -⟩ := h.place
    · rw [hst]; rfl
    · omega
  obtain ⟨t, hexec, ht, hpub, htsource, htinputs⟩ := execBodyByte_holdsBody hk hbegin
  rw [beginStep_source] at htsource
  rw [beginStep_inputs] at htinputs
  exact ⟨t, takes_one hq hsource hi hexec htsource htinputs, samePublished_trans (beginStep_samePublished s) hpub, ht⟩

/-- R85 for all the bytes that are left of the body. -/
theorem takes_body {n : Nat} {s : State} {blk : BitVec 7} {body : Vector Byte 18} {k : Nat} {rest : List Byte}
    (hkn : k + n = 18) (h : HoldsBody blk body k s) (hsource : s.source = body.toList.drop k ++ rest)
    (hq : s.quietFor n = true) : ∃ t, Takes n s t ∧ s.samePublished t ∧ HoldsBody blk body 18 t := by
  induction n generalizing s k with
  | zero => obtain rfl : k = 18 := hkn; exact ⟨s, .refl s, ⟨rfl, rfl, rfl, rfl⟩, h⟩
  | succ n ih =>
    have hk : k < 18 := by omega
    rw [List.drop_eq_getElem_cons (by simpa using hk), Vector.getElem_toList, List.cons_append] at hsource
    rw [Nat.add_comm] at hq ⊢
    obtain ⟨u, htake, hpub, hu⟩ := takes_bodyByte hk h hsource (quietFor_of_le hq (by omega))
    have husource : u.source = body.toList.drop (k + 1) ++ rest := by rw [htake.source, hsource]; rfl
    obtain ⟨t, htakes, hpub', ht⟩ := ih (by omega) hu husource (htake.quietFor hq)
    exact ⟨t, htake.trans htakes, samePublished_trans hpub hpub', ht⟩

/-- The end of a packet: the decoder is back in SEEK_START and the packet is committed (R87). -/
structure Committed (s t : State) (blk : BitVec 7) (body : Vector Byte 18) (cs : BitVec 16) : Prop where
  st_eq     : t.st = .seekStart
  cnt_eq    : t.cnt = 0
  blk_eq    : t.blk = blk
  buf_eq    : t.buf = body
  evtBlk_eq : t.out.evtBlk = blk
  commits   : CommitsBy s t blk body cs

theorem Committed.of_samePublished {s t u : State} {blk : BitVec 7} {body : Vector Byte 18} {cs : BitVec 16}
    (h : Committed t u blk body cs) (hpub : s.samePublished t) : Committed s u blk body cs :=
  { h with commits := h.commits.of_samePublished hpub }

/-- R86: the first byte of the checksum field. -/
theorem takes_ckLo {s : State} {lo : Byte} {rest : List Byte} (hst : s.st = .readChecksum) (hcnt : s.cnt = 0)
    (hsource : s.source = lo :: rest) (hq : s.quietFor 1 = true) :
    ∃ t, Takes 1 s t ∧ s.samePublished t ∧ t.st = .readChecksum ∧ t.cnt = 1 ∧ t.blk = s.blk ∧ t.buf = s.buf ∧
      t.cklo = lo := by
  have hi : decodeByte s.st s.cnt lo = .ok (.ckLo lo) := by rw [hst, hcnt]; rfl
  exact ⟨_, takes_one hq hsource hi rfl (by simp) (by simp), by simp [State.samePublished], by simpa using hst, rfl,
    by simp, by simp, rfl⟩

/-- R87: the second byte of the checksum field. -/
theorem takes_ckHi {s : State} {hi : Byte} {rest : List Byte} (hblk : s.blk.toNat ≤ 89) (hst : s.st = .readChecksum)
    (hcnt : s.cnt = 1) (hsource : s.source = hi :: rest) (hq : s.quietFor 1 = true) :
    ∃ t, Takes 1 s t ∧ Committed s t s.blk s.buf (le16 s.cklo hi) := by
  have hi' : decodeByte s.st s.cnt hi = .ok (.ckHi hi) := by rw [hst, hcnt]; rfl
  obtain ⟨t, hexec, htst, htcnt, htsource, htinputs, htblk, htbuf, -, hevtBlk, hcommit⟩ :=
    execCkHi_commits hi (s := s.beginStep) (by simpa using hblk)
  simp only [beginStep_source, beginStep_inputs, beginStep_blk, beginStep_buf, beginStep_cklo] at *
  exact ⟨t, takes_one hq hsource hi' hexec htsource htinputs, htst, htcnt, htblk, htbuf, hevtBlk,
    hcommit.of_samePublished (beginStep_samePublished s)⟩

/-- R86, R87: the checksum field after the body. -/
theorem takes_checksum {s : State} {blk : BitVec 7} {body : Vector Byte 18} {lo hi : Byte} {rest : List Byte}
    (hblk : blk.toNat ≤ 89) (h : HoldsBody blk body 18 s) (hsource : s.source = lo :: hi :: rest)
    (hq : s.quietFor 2 = true) : ∃ t, Takes 2 s t ∧ Committed s t blk body (le16 lo hi) := by
  obtain rfl := h.buf_eq_body
  obtain ⟨rfl, ⟨hlt, -⟩ | ⟨-, hst, hcnt⟩, -⟩ := h
  · omega
  obtain ⟨u, hlo, hpub, hust, hucnt, hublk, hubuf, rfl⟩ := takes_ckLo hst hcnt hsource (quietFor_of_le hq (by omega))
  have husource : u.source = hi :: rest := by rw [hlo.source, hsource]; rfl
  obtain ⟨t, hhi, ht⟩ := takes_ckHi (hublk ▸ hblk) hust hucnt husource (hlo.quietFor hq)
  rw [hublk, hubuf] at ht
  exact ⟨t, hlo.trans hhi, ht.of_samePublished hpub⟩

theorem framePacket_eq (blk : BitVec 7) (body : Vector Byte 18) (cs : BitVec 16) :
    framePacket blk body cs =
      0xFA :: (blk.setWidth 8 + 0xA0) :: (body.toList ++ [loByte cs, hiByte cs]) := by
  rw [framePacket, checksumBytes_toList]
  rfl

/-- R89 from READ_INDEX: the 21 bytes after the marker. -/
theorem takes_packet_readIndex {s : State} {blk : BitVec 7} {body : Vector Byte 18} {cs : BitVec 16}
    {rest : List Byte} (hblk : blk.toNat ≤ 89) (hst : s.st = .readIndex)
    (hsource : s.source = (framePacket blk body cs).tail ++ rest) (hq : s.quietFor 21 = true) :
    ∃ t, Takes 21 s t ∧ Committed s t blk body cs := by
  simp only [framePacket_eq, List.tail_cons, List.cons_append, List.append_assoc, List.nil_append] at hsource
  obtain ⟨u, hindex, hpubu, hust, hucnt, hublk⟩ := takes_index hblk hst hsource (quietFor_of_le hq (by omega))
  have husource : u.source = body.toList.drop 0 ++ (loByte cs :: hiByte cs :: rest) := by
    rw [hindex.source, hsource]; rfl
  have hqu : u.quietFor 20 = true := hindex.quietFor hq
  have hu : HoldsBody blk body 0 u :=
    ⟨hublk, .inl ⟨by omega, hust, by rw [hucnt]; rfl⟩, fun i _ hi => absurd hi (by omega)⟩
  obtain ⟨v, hbody, hpubv, hv⟩ := takes_body (n := 18) rfl hu husource (quietFor_of_le hqu (by omega))
  have hvsource : v.source = loByte cs :: hiByte cs :: rest := by
    rw [hbody.source, husource]; exact List.drop_left' Vector.length_toList
  obtain ⟨t, hfield, ht⟩ := takes_checksum hblk hv hvsource (hbody.quietFor hqu)
  rw [le16_loByte_hiByte] at ht
  exact ⟨t, (hindex.trans hbody).trans hfield, ht.of_samePublished (samePublished_trans hpubu hpubv)⟩

/-- R80, R83: the marker leads from SEEK_START to READ_INDEX and keeps the decoder there. -/
theorem takes_marker {s : State} {rest : List Byte} (hst : s.st = .seekStart ∨ s.st = .readIndex)
    (hsource : s.source = 0xFA :: rest) (hq : s.quietFor 1 = true) :
    ∃ t, Takes 1 s t ∧ s.samePublished t ∧ t.st = .readIndex := by
  obtain hst | hst := hst
  · exact takes_byte_seekStart hst hsource hq
  · obtain ⟨t, htake, hsame⟩ := takes_marker_readIndex hst hsource hq
    exact ⟨t, htake, hsame.samePublished, hsame.st_eq.trans hst⟩

/-- R89: the marker and the 21 bytes after it, also behind another marker. -/
theorem takes_packet {s : State} {blk : BitVec 7} {body : Vector Byte 18} {cs : BitVec 16} {rest : List Byte}
    (hblk : blk.toNat ≤ 89) (hst : s.st = .seekStart ∨ s.st = .readIndex)
    (hsource : s.source = framePacket blk body cs ++ rest) (hq : s.quietFor 22 = true) :
    ∃ t, Takes 22 s t ∧ Committed s t blk body cs := by
  have hmarker : s.source = 0xFA :: ((framePacket blk body cs).tail ++ rest) := by rw [hsource, framePacket_eq]; rfl
  obtain ⟨u, htake, hpub, hust⟩ := takes_marker hst hmarker (quietFor_of_le hq (by omega))
  have husource : u.source = (framePacket blk body cs).tail ++ rest := by rw [htake.source, hmarker]; rfl
  obtain ⟨t, htakes, ht⟩ := takes_packet_readIndex hblk hust husource (htake.quietFor hq)
  exact ⟨t, htake.trans htakes, ht.of_samePublished hpub⟩

theorem length_framePacket (blk : BitVec 7) (body : Vector Byte 18) (cs : BitVec 16) :
    (framePacket blk body cs).length = 22 := by
  rw [framePacket, List.length_append, Vector.length_toList]; rfl

/-- Settles O50: the packet is the marker, the index byte, the body and the field, each taken by its own operation. -/
theorem packetIsFramedAndCommitted : Obligations.PacketIsFramedAndCommitted := by
  intro s blk body cs rest n hblk hstart hq
  have hlen := length_framePacket blk body cs
  obtain ⟨t, htakes, htsource, ht⟩ : ∃ t, Takes n s t ∧ t.source = rest ∧ Committed s t blk body cs := by
    obtain ⟨rfl, hst, hsource⟩ | ⟨rfl, hst, hsource⟩ := hstart
    · obtain ⟨t, htakes, ht⟩ := takes_packet hblk (.inl hst) hsource hq
      exact ⟨t, htakes, by rw [htakes.source, hsource, List.drop_left' hlen], ht⟩
    · obtain ⟨t, htakes, ht⟩ := takes_packet_readIndex hblk hst hsource hq
      exact ⟨t, htakes, by rw [htakes.source, hsource, List.drop_left' (by simp [hlen])], ht⟩
  exact ⟨t, htakes.run, ht.st_eq, ht.cnt_eq, htsource, htakes.inputs, ht.blk_eq, ht.buf_eq, ht.evtBlk_eq, ht.commits⟩

end Sys2Proof.Proofs
end

section
/-! PROOFS. Family `40_framing.md`: damaged packets (R90): the checksum catches one changed byte (R107), and an
inserted byte costs one packet. -/

namespace Sys2Proof.Proofs

open Sys2Proof.Machine Sys2Proof.Claims

/-! ### The checksum tells one changed byte -/

/-- R101: a byte list of `m + 1` words starts with one. -/
theorem exists_word_cons {m : Nat} {l : List Byte} (hl : l.length = 2 * (m + 1)) :
    ∃ lo hi rest, l = lo :: hi :: rest ∧ rest.length = 2 * m := by
  match l, hl with
  | lo :: hi :: rest, hl => exact ⟨lo, hi, rest, rfl, by simpa [Nat.mul_succ] using hl⟩

/-- R102: the fold is linear in the accumulator, which `m` words shift left by `m`. -/
theorem foldWords_add {m : Nat} (acc e : Nat) {l : List Byte} (hl : l.length = 2 * m) :
    foldWords (acc + e) l = foldWords acc l + e * 2 ^ m := by
  induction m generalizing acc e l with
  | zero => obtain rfl := List.eq_nil_of_length_eq_zero hl; simp [foldWords]
  | succ m ih =>
    obtain ⟨lo, hi, rest, rfl, hrest⟩ := exists_word_cons hl
    have hshift : 2 * (acc + e) + (lo.toNat + 256 * hi.toNat) = 2 * acc + (lo.toNat + 256 * hi.toNat) + 2 * e := by
      omega
    rw [foldWords_cons, foldWords_cons, hshift, ih _ _ hrest, Nat.pow_succ']
    ring

/-- R102: the bound of the accumulator. -/
theorem foldWords_add_le {m : Nat} (acc : Nat) {l : List Byte} (hl : l.length = 2 * m) :
    foldWords acc l + 65535 ≤ (acc + 65535) * 2 ^ m := by
  induction m generalizing acc l with
  | zero => obtain rfl := List.eq_nil_of_length_eq_zero hl; simp [foldWords]
  | succ m ih =>
    obtain ⟨lo, hi, rest, rfl, hrest⟩ := exists_word_cons hl
    have hlo := lo.isLt
    have hhi := hi.isLt
    rw [foldWords_cons, Nat.pow_succ', ← Nat.mul_assoc]
    refine (ih _ hrest).trans (Nat.mul_le_mul_right _ ?_)
    omega

/-- R107: one changed byte moves the accumulator by its difference, shifted to its place. -/
theorem foldWords_set {m : Nat} (acc : Nat) {l : List Byte} (hl : l.length = 2 * m) {k : Nat} (hk : k < l.length)
    (b : Byte) :
    ∃ w < m + 8, foldWords acc (l.set k b) + l[k].toNat * 2 ^ w = foldWords acc l + b.toNat * 2 ^ w := by
  induction m generalizing acc l k with
  | zero => omega
  | succ m ih =>
    obtain ⟨lo, hi, rest, rfl, hrest⟩ := exists_word_cons hl
    match k with
    | 0 =>
      refine ⟨m, by omega, ?_⟩
      simp only [List.set_cons_zero, List.getElem_cons_zero, foldWords_cons, ← Nat.add_assoc, foldWords_add _ _ hrest]
      ring
    | 1 =>
      refine ⟨m + 8, by omega, ?_⟩
      simp only [List.set_cons_succ, List.set_cons_zero, List.getElem_cons_succ, List.getElem_cons_zero, foldWords_cons,
        ← Nat.add_assoc, foldWords_add _ _ hrest]
      ring
    | k + 2 =>
      obtain ⟨w, hw, h⟩ := ih (2 * acc + (lo.toNat + 256 * hi.toNat)) hrest (by simpa using hk)
      exact ⟨w, by omega, by simpa only [List.set_cons_succ, List.getElem_cons_succ, foldWords_cons] using h⟩

/-- R107: 2^15 is 1 modulo 2^15 - 1, so a shift by `w` is undone by one of `30 - w`. -/
theorem byte_eq_of_shift_mod {e w : Nat} (he : e < 256) (hw : w < 18) :
    e * 2 ^ w % 32767 * 2 ^ (30 - w) % 32767 = e := by
  have hpow : e * 2 ^ w * 2 ^ (30 - w) = e * 2 ^ 30 := by
    rw [Nat.mul_assoc, ← Nat.pow_add, Nat.add_sub_cancel' (by omega)]
  rw [Nat.mod_mul_mod, hpow]
  omega

/-- R107: the residues 1 and -1 are no shifted byte, but for a single bit that is shifted to 1 or to 2^15. -/
theorem shift_back_of_one_and_neg_one : ∀ w < 18,
    (2 ^ (30 - w) % 32767 < 256 → 2 ^ (30 - w) % 32767 * 2 ^ w = 1 ∨ 2 ^ (30 - w) % 32767 * 2 ^ w = 32768) ∧
      256 ≤ 32766 * 2 ^ (30 - w) % 32767 := by
  decide

/-- R107: a difference of the accumulator that the reduction keeps apart: modulo 2^15 - 1 the reduced value changes by
the difference and by at most one 2^15 more or less. -/
theorem reduceAcc_add_ne {acc n : Nat} (hacc : acc + n < 2 ^ 26) (h0 : n % 32767 ≠ 0)
    (h1 : n % 32767 = 1 → n = 1 ∨ n = 32768) (h2 : n % 32767 ≠ 32766) : reduceAcc (acc + n) ≠ reduceAcc acc := by
  intro h
  have h := congrArg BitVec.toNat h
  rw [reduceAcc_toNat, reduceAcc_toNat] at h
  obtain ⟨q, hq⟩ := Nat.exists_eq_add_of_le (Nat.div_le_div_right (c := 32768) (Nat.le_add_right acc n))
  have hdiff : n = 32767 * q ∨ n = 32767 * q + 32768 ∨ n + 32768 = 32767 * q := by omega
  obtain hn | hn | hn := hdiff <;> omega

/-- R107: two accumulators that differ by one byte at one place reduce to different values. -/
theorem reduceAcc_ne_of_byte_lt {acc acc' a b w : Nat} (hmove : acc' + a * 2 ^ w = acc + b * 2 ^ w) (hab : a < b)
    (hb : b < 256) (hw : w < 18) (hacc' : acc' < 2 ^ 26) : reduceAcc acc' ≠ reduceAcc acc := by
  obtain ⟨e, rfl⟩ := Nat.exists_eq_add_of_lt hab
  obtain rfl : acc' = acc + (e + 1) * 2 ^ w := by rw [Nat.add_assoc, Nat.add_mul] at hmove; omega
  have hback := byte_eq_of_shift_mod (e := e + 1) (by omega) hw
  obtain ⟨hone, hneg⟩ := shift_back_of_one_and_neg_one w hw
  refine reduceAcc_add_ne hacc' (fun h => ?_) (fun h => ?_) (fun h => ?_) <;> rw [h] at hback
  · omega
  · rw [Nat.one_mul] at hback
    rw [hback] at hone
    exact hone (by omega)
  · omega

/-- R107 (a): another byte at one place gives another checksum. -/
theorem checksum_set_ne (d : Vector Byte 20) (k : Fin 20) {b : Byte} (hb : b ≠ d[k]) :
    checksum (d.set k b) ≠ checksum d := by
  have hlen (v : Vector Byte 20) : v.toList.length = 2 * 10 := Vector.length_toList
  have hbound (v : Vector Byte 20) : foldWords 0 v.toList < 2 ^ 26 := by
    have := foldWords_add_le 0 (hlen v)
    omega
  obtain ⟨w, hw, hmove⟩ := foldWords_set 0 (hlen d) (k := k) (by rw [hlen]; exact k.isLt) b
  rw [← Vector.toList_set, Vector.getElem_toList] at hmove
  have hne : b.toNat ≠ d[k].toNat := fun h => hb (BitVec.eq_of_toNat_eq h)
  obtain hlt | hlt := Nat.lt_or_gt_of_ne hne
  · exact (reduceAcc_ne_of_byte_lt hmove.symm hlt d[k].isLt hw (hbound d)).symm
  · exact reduceAcc_ne_of_byte_lt hmove hlt b.isLt hw (hbound _)

/-- R109: the body bytes stand at offsets 2..19 of the bytes the checksum covers. -/
theorem checksumBytes_set (blk : BitVec 7) (body : Vector Byte 18) (k : Fin 18) (b : Byte) :
    checksumBytes blk (body.set k b) = (checksumBytes blk body).set (k + 2) b := by
  apply Vector.toList_inj.mp
  simp [checksumBytes_toList, Vector.toList_set]

/-- R107 (a) for a packet: another body byte gives another checksum. -/
theorem checksum_body_set_ne (blk : BitVec 7) (body : Vector Byte 18) (k : Fin 18) {b : Byte} (hb : b ≠ body[k]) :
    checksum (checksumBytes blk (body.set k b)) ≠ checksum (checksumBytes blk body) := by
  rw [checksumBytes_set]
  exact checksum_set_ne _ ⟨k + 2, by omega⟩ (by simpa [checksumBytes_body] using hb)

/-- R104: the comparison at 16 bits loses nothing of the 15. -/
theorem setWidth_16_inj {c c' : BitVec 15} (h : c.setWidth 16 = c'.setWidth 16) : c = c' := by
  simpa using congrArg (BitVec.setWidth 15) h

/-- Settles O51: the packet is framed by O50, and its checksum is not the one of the body sent. -/
theorem damagedPacketIsCaughtAndResynchronised : Obligations.DamagedPacketIsCaughtAndResynchronised := by
  intro s blk body k b rest hblk hb hst hsource hq
  obtain ⟨t, hrun, htst, htcnt, htsource, -, -, -, -, hcommit⟩ :=
    packetIsFramedAndCommitted s blk _ _ rest 22 hblk (.inl ⟨rfl, hst, hsource⟩) hq
  obtain ⟨hck, -⟩ | ⟨-, hevt, hpublish⟩ := hcommit
  · exact absurd (setWidth_16_inj hck) (checksum_body_set_ne blk body k hb)
  · exact ⟨t, hrun, htst, htcnt, htsource, hevt, hpublish⟩

/-! ### An inserted byte -/

theorem loByte_hiByte_le16 (lo hi : Byte) : loByte (le16 lo hi) = lo ∧ hiByte (le16 lo hi) = hi :=
  le16_inj (le16_loByte_hiByte (le16 lo hi))

/-- Any 20 bytes behind a marker and an index byte are the body and the field of some packet of the block (R89). -/
theorem exists_framePacket (blk : BitVec 7) {l : List Byte} (hl : l.length = 20) :
    ∃ body cs, 0xFA :: (blk.setWidth 8 + 0xA0) :: l = framePacket blk body cs := by
  obtain ⟨lo, hi, hfield⟩ : ∃ lo hi, l.drop 18 = [lo, hi] := List.length_eq_two.mp (by simp [hl])
  obtain ⟨hlo, hhi⟩ := loByte_hiByte_le16 lo hi
  refine ⟨⟨(l.take 18).toArray, by simp [hl]⟩, le16 lo hi, ?_⟩
  rw [framePacket_eq, hlo, hhi, ← hfield, Vector.toList_mk, List.take_append_drop]

/-- R90: with a byte inserted after its index byte, a packet is some other packet of its block and one byte more. -/
theorem insert_eq_framePacket_append (blk : BitVec 7) (body : Vector Byte 18) (cs : BitVec 16) (x : Byte) {j : Nat}
    (hj : 2 ≤ j) (hj' : j ≤ 21) :
    ∃ body' cs' y, (framePacket blk body cs).take j ++ x :: (framePacket blk body cs).drop j =
      framePacket blk body' cs' ++ [y] := by
  obtain ⟨i, rfl⟩ := Nat.exists_eq_add_of_le' hj
  rw [framePacket_eq]
  generalize hl : body.toList ++ [loByte cs, hiByte cs] = l
  have hlen : l.length = 20 := by simp [← hl]
  generalize hm : l.take i ++ x :: l.drop i = m
  have hmlen : m.length = 21 := by
    simp only [← hm, List.length_append, List.length_take, List.length_cons, List.length_drop]
    omega
  obtain ⟨y, hy⟩ : ∃ y, m.drop 20 = [y] := List.length_eq_one_iff.mp (by rw [List.length_drop, hmlen])
  obtain ⟨body', cs', hframe⟩ := exists_framePacket blk (l := m.take 20) (by simp [hmlen])
  refine ⟨body', cs', y, ?_⟩
  rw [← hframe, ← hy, List.cons_append, List.cons_append, List.take_append_drop, ← hm]
  rfl

/-- R90: whatever the byte left over is, the packet behind it is framed. -/
theorem takes_byte_and_packet {s : State} {blk : BitVec 7} {body : Vector Byte 18} {cs : BitVec 16} {y : Byte}
    {rest : List Byte} (hblk : blk.toNat ≤ 89) (hst : s.st = .seekStart)
    (hsource : s.source = y :: (framePacket blk body cs ++ rest)) (hq : s.quietFor 23 = true) :
    ∃ t, Takes 23 s t ∧ Committed s t blk body cs := by
  obtain ⟨u, htake, hpub, hust⟩ := takes_byte_seekStart hst hsource (quietFor_of_le hq (by omega))
  have husource : u.source = framePacket blk body cs ++ rest := by rw [htake.source, hsource]; rfl
  have hust' : u.st = .seekStart ∨ u.st = .readIndex := by
    rw [hust]
    split_ifs
    · exact .inr rfl
    · exact .inl rfl
  obtain ⟨t, htakes, ht⟩ := takes_packet hblk hust' husource (htake.quietFor hq)
  exact ⟨t, htake.trans htakes, ht.of_samePublished hpub⟩

/-- Settles O54: the first 22 bytes are some packet of the block, and the byte left over does not hide the next one. -/
theorem insertedByteCostsOnePacket : Obligations.InsertedByteCostsOnePacket := by
  intro s blk blk' body body' cs cs' j x rest hblk hblk' hj hj' hst hsource hq
  obtain ⟨bodyIn, csIn, y, hins⟩ := insert_eq_framePacket_append blk body cs x hj hj'
  rw [hins, List.append_assoc] at hsource
  obtain ⟨u, hfirst, hu⟩ := takes_packet hblk (.inl hst) hsource (quietFor_of_le hq (by omega))
  have husource : u.source = y :: (framePacket blk' body' cs' ++ rest) := by
    rw [hfirst.source, hsource, List.drop_left' (length_framePacket _ _ _)]; rfl
  obtain ⟨t, hsecond, ht⟩ := takes_byte_and_packet hblk' hu.st_eq husource (hfirst.quietFor hq)
  have htsource : t.source = rest := by
    rw [hsecond.source, husource, List.drop_succ_cons, List.drop_left' (length_framePacket _ _ _)]
  refine ⟨u, t, hfirst.run, hu.st_eq, hu.blk_eq, hu.evtBlk_eq, ?_, (hfirst.trans hsecond).run, ht.st_eq, htsource,
    ht.blk_eq, ht.buf_eq, ht.commits⟩
  obtain ⟨-, hevt, -⟩ | ⟨-, hevt, -⟩ := hu.commits
  · exact .inl hevt
  · exact .inr hevt

end Sys2Proof.Proofs
end

section
/-! PROOFS. Family `41_checksum.md`: the closed form and the width of the accumulator (R100 to R103), the range of the
checksum (R106), the damage it detects (R107) and the bytes it covers (R109). -/

namespace Sys2Proof.Proofs

open Sys2Proof.Machine Sys2Proof.Claims

/-! ### The accumulator -/

/-- R102: in the accumulator of `m` words, word `t` is shifted left by the words behind it. -/
theorem foldWords_eq_sum {m : Nat} (acc : Nat) {l : List Byte} (hl : l.length = 2 * m) :
    foldWords acc l =
      acc * 2 ^ m + ∑ t : Fin m, (l[2 * t.val].toNat + 256 * l[2 * t.val + 1].toNat) * 2 ^ (m - (t.val + 1)) := by
  induction m generalizing acc l with
  | zero => obtain rfl := List.eq_nil_of_length_eq_zero hl; simp [foldWords]
  | succ m ih =>
    obtain ⟨lo, hi, rest, rfl, hrest⟩ := exists_word_cons hl
    rw [foldWords_cons, ih _ hrest, Fin.sum_univ_succ]
    simp only [Fin.val_succ, Fin.val_zero, Nat.add_sub_add_right, Nat.sub_zero, Nat.mul_succ, Nat.mul_zero,
      List.getElem_cons_succ, List.getElem_cons_zero]
    ring

/-- R100 to R102 for the 20 bytes of a packet. -/
theorem foldWords_toList (d : Vector Byte 20) :
    foldWords 0 d.toList =
      ∑ t : Fin 10, (d[2 * t.val].toNat + 256 * d[2 * t.val + 1].toNat) * 2 ^ (9 - t.val) := by
  rw [foldWords_eq_sum 0 (m := 10) Vector.length_toList, Nat.zero_mul, Nat.zero_add]
  simp only [Vector.getElem_toList, Nat.reduceSubDiff]

/-- R102: the largest accumulator is 0xFFFF in every word. -/
theorem foldWords_toList_le (d : Vector Byte 20) : foldWords 0 d.toList ≤ 0x3FEFC01 := by
  have hbound := foldWords_add_le 0 (m := 10) (l := d.toList) Vector.length_toList
  omega

/-- Settles O20: the accumulator is the sum, and at most 0x3FEFC01, so its upper part is below 2^11. -/
theorem checksumClosedForm : Obligations.ChecksumClosedForm := by
  intro d acc
  have hbound := foldWords_toList_le d
  have hck : (checksum d).toNat = (foldWords 0 d.toList % 32768 + foldWords 0 d.toList / 32768) % 32768 :=
    reduceAcc_toNat _
  rw [foldWords_toList] at hbound hck
  exact ⟨hck, by omega, by omega⟩

/-! ### The fold register -/

/-- R102: a register of any width holds the accumulator modulo its size. -/
theorem foldRegister_ofNat (n acc : Nat) (l : List Byte) :
    foldRegister n (BitVec.ofNat n acc) l = BitVec.ofNat n (foldWords acc l) := by
  induction acc, l using foldWords.induct with
  | case1 acc lo hi rest ih =>
    have hword : (BitVec.ofNat n acc <<< 1) + BitVec.ofNat n (le16 lo hi).toNat =
        BitVec.ofNat n ((acc <<< 1) + (le16 lo hi).toNat) := by
      apply BitVec.eq_of_toNat_eq
      simp [Nat.shiftLeft_eq]
    rw [foldRegister, hword, ih, foldWords]
  | case2 | case3 => rfl

/-- Settles O21: the accumulator is below 2^26, so a register of 26 bits loses nothing. -/
theorem foldRegisterOf26BitsSuffices : Obligations.FoldRegisterOf26BitsSuffices := by
  intro d
  have hbound := foldWords_toList_le d
  refine ⟨foldWords_toList d, hbound, fun n hn => ?_⟩
  have hpow : 2 ^ 26 ≤ 2 ^ n := Nat.pow_le_pow_right (by omega) hn
  have hregister := foldRegister_ofNat n 0 d.toList
  rw [BitVec.ofNat_eq_ofNat, hregister, BitVec.toNat_ofNat, Nat.mod_eq_of_lt (by omega)]

/-! ### The received checksum -/

/-- R106: a field whose second byte is 0x80 or more is above the 15 bits of the checksum. -/
theorem checksum_ne_le16_of_high {hi : Byte} (h : 0x80 ≤ hi.toNat) (d : Vector Byte 20) (lo : Byte) :
    (checksum d).setWidth 16 ≠ le16 lo hi := by
  intro heq
  have hck := (checksum d).isLt
  have hnum := congrArg BitVec.toNat heq
  rw [le16_toNat, BitVec.toNat_setWidth, Nat.mod_eq_of_lt (by omega)] at hnum
  omega

/-- Settles O22: of the two commits of CK_HI only the bad one is left. -/
theorem highChecksumByteNeverMatches : Obligations.HighChecksumByteNeverMatches := by
  refine ⟨fun d => Nat.le_of_lt_succ (checksum d).isLt, fun x s hx hblk => ?_⟩
  obtain ⟨t, hexec, -, -, -, -, -, -, -, -, ⟨hck, -⟩ | ⟨-, hevt, hpublish⟩⟩ := execCkHi_commits x hblk
  · exact absurd hck (checksum_ne_le16_of_high hx _ _)
  · exact ⟨t, hexec, hevt, hpublish⟩

/-! ### The bytes the checksum covers -/

/-- R109: the two bytes before the body. -/
theorem checksumBytes_header (blk : BitVec 7) (buf : Vector Byte 18) (k : Nat) (hk : k < 2) :
    (checksumBytes blk buf)[k] = #v[(0xFA : Byte), blk.setWidth 8 + 0xA0][k] := by
  unfold checksumBytes
  rw [Vector.getElem_cast, Vector.getElem_append_left hk]
  rfl

theorem checksumBytes_index (blk : BitVec 7) (buf : Vector Byte 18) :
    (checksumBytes blk buf)[1] = blk.setWidth 8 + 0xA0 :=
  checksumBytes_header blk buf 1 (by omega)

/-- Settles O19, byte by byte. -/
theorem checksumCoversMarkerIndexBody : Obligations.ChecksumCoversMarkerIndexBody := by
  intro blk buf hblk
  refine ⟨checksumBytes_header blk buf 0 (by omega), ?_, fun k => checksumBytes_body blk buf k k.isLt⟩
  rw [checksumBytes_index, indexByte_toNat hblk]

/-! ### Damaged packets -/

/-- R63: two blocks have two index bytes. -/
theorem indexByte_inj {blk blk' : BitVec 7} (h : (blk'.setWidth 8 + 0xA0 : Byte) = blk.setWidth 8 + 0xA0) :
    blk' = blk := by
  bv_omega

/-- R109: a packet of another block covers the same bytes but for the one at offset 1. -/
theorem checksumBytes_set_index (blk blk' : BitVec 7) (body : Vector Byte 18) :
    checksumBytes blk' body = (checksumBytes blk body).set 1 (blk'.setWidth 8 + 0xA0) := by
  apply Vector.toList_inj.mp
  simp [checksumBytes_toList, Vector.toList_set]

/-- R107 (a) at offset 1: the index byte of another block gives another checksum. -/
theorem checksum_block_ne {blk blk' : BitVec 7} (hblk : blk' ≠ blk) (body : Vector Byte 18) :
    checksum (checksumBytes blk' body) ≠ checksum (checksumBytes blk body) := by
  rw [checksumBytes_set_index blk blk']
  exact checksum_set_ne _ 1 fun h => hblk (indexByte_inj (h.trans (checksumBytes_index blk body)))

/-- R104: a field that matches some bytes matches no bytes with another checksum. -/
theorem checksumMatches_eq_false_of_ne {blk blk' : BitVec 7} {body body' : Vector Byte 18} {lo hi : Byte}
    (hmatch : checksumMatches blk body lo hi = true)
    (hne : checksum (checksumBytes blk' body') ≠ checksum (checksumBytes blk body)) :
    checksumMatches blk' body' lo hi = false :=
  beq_false_of_ne fun h => hne (setWidth_16_inj (h.trans (eq_of_beq hmatch).symm))

/-- R107 (b): a packet matches one checksum field only. -/
theorem checksumMatches_field_unique {blk : BitVec 7} {body : Vector Byte 18} {lo hi lo' hi' : Byte}
    (hmatch : checksumMatches blk body lo hi = true) (hmatch' : checksumMatches blk body lo' hi' = true) :
    lo' = lo ∧ hi' = hi :=
  le16_inj ((eq_of_beq hmatch').symm.trans (eq_of_beq hmatch))

/-- R107 (c): one more in a word is two less in the next. -/
theorem foldWords_undetected {a b c d a' b' c' d' : Byte} (acc : Nat) (rest : List Byte)
    (hfirst : (le16 a' b').toNat = (le16 a b).toNat + 1) (hsecond : (le16 c' d').toNat + 2 = (le16 c d).toNat) :
    foldWords acc (a' :: b' :: c' :: d' :: rest) = foldWords acc (a :: b :: c :: d :: rest) := by
  simp only [le16_toNat] at hfirst hsecond
  simp only [foldWords_cons]
  congr 1
  omega

/-- Settles O23, from the three cases of R107; the example is evaluated. -/
theorem singleByteDamageIsDetected : Obligations.SingleByteDamageIsDetected := by
  refine ⟨fun d k b _ hb => checksum_set_ne d k hb, fun blk body lo hi hmatch => ⟨?_, ?_⟩, ?_, ?_, by decide,
    by decide⟩
  · exact fun k b hb => checksumMatches_eq_false_of_ne hmatch (checksum_body_set_ne blk body k hb)
  · exact fun blk' hblk => checksumMatches_eq_false_of_ne hmatch (checksum_block_ne hblk body)
  · intro blk body lo hi lo' hi' hmatch hfield
    rw [← Bool.not_eq_true]
    intro hmatch'
    obtain ⟨hlo, hhi⟩ := checksumMatches_field_unique hmatch hmatch'
    exact hfield.elim (absurd hlo) (absurd hhi)
  · exact fun acc a b c d a' b' c' d' rest => foldWords_undetected acc rest

/-- Settles O55: the packet is framed by O50 as one of the block the damaged byte names, and its checksum is not that
block's. -/
theorem damagedIndexByteIsCaught : Obligations.DamagedIndexByteIsCaught := by
  intro s blk blk' body rest hblk' hne hst hsource hq
  obtain ⟨t, hrun, htst, -, htsource, -, -, -, hevtBlk, hcommit⟩ :=
    packetIsFramedAndCommitted s blk' _ _ rest 22 hblk' (.inl ⟨rfl, hst, hsource⟩) hq
  obtain ⟨hck, -⟩ | ⟨-, hevt, hpublish⟩ := hcommit
  · exact absurd (setWidth_16_inj hck) (checksum_block_ne hne body)
  · exact ⟨t, hrun, htst, htsource, hevt, hevtBlk, hpublish⟩

end Sys2Proof.Proofs
end

section
/-! PROOFS. Family `42_decode_commit.md`: the angles of a block (R119), the two commits with their frames (R120 to
R122), that a commit does not read the old table (R125), and the slots a consumer can see (R124). -/

namespace Sys2Proof.Proofs

open Sys2Proof.Machine Sys2Proof.Claims

/-! ### The angles of a block -/

/-- R119: an angle names one block and one sample, its quotient and remainder by four. -/
theorem angle_inj {blk blk' : BitVec 7} {k k' : Fin 4} (h : angle blk k = angle blk' k') : blk = blk' ∧ k = k' := by
  simp only [angle_eq] at h
  exact ⟨BitVec.eq_of_toNat_eq (by omega), Fin.ext (by omega)⟩

/-- Settles O25: four samples for each of the blocks 0..89 make the angles 0..359. -/
theorem anglesStayInTable : Obligations.AnglesStayInTable := by
  refine ⟨fun blk k hblk => ⟨angle_eq blk k, ?_⟩, fun _ _ _ _ => angle_inj⟩
  rw [angle_eq]
  omega

/-! ### The two commits with their frames -/

/-- Settles O9: the comparison selects COMMIT_OK, whose result equation is the frame. -/
theorem commitOkWritesSamplesAndSpeed : Obligations.CommitOkWritesSamplesAndSpeed := by
  intro x s hblk hck
  have hmatch : checksumMatches s.blk s.buf s.cklo x = true := (checksumMatches_iff ..).mpr hck
  exact ⟨_, execCkHi_ok x s (Nat.lt_succ_of_le hblk) hmatch, commitOk_publishesPacket (s := s.consume) hblk, rfl⟩

/-- Settles O10: the comparison selects COMMIT_BAD, whose result equation is the frame. -/
theorem commitBadWritesSentinelsAndCounts : Obligations.CommitBadWritesSentinelsAndCounts := by
  intro x s hblk hck
  have hmatch : checksumMatches s.blk s.buf s.cklo x = false :=
    Bool.eq_false_iff.mpr (mt (checksumMatches_iff ..).mp hck)
  exact ⟨_, execCkHi_bad x s (Nat.lt_succ_of_le hblk) hmatch, commitBad_publishesError (s := s.consume) hblk, rfl⟩

/-! ### A commit does not read the old table -/

/-- R120, R121: the four slots a commit writes, by the comparison. -/
def committedSlots (blk : BitVec 7) (buf : Vector Byte 18) (lo hi : Byte) : Vector Slot 4 :=
  if checksumMatches blk buf lo hi then decodedSlots buf else Vector.replicate 4 sentinel

/-- R120, R121: the result code a commit emits, by the comparison. -/
def commitReport (blk : BitVec 7) (buf : Vector Byte 18) (lo hi : Byte) : Evt :=
  if checksumMatches blk buf lo hi then .pktOk else .pktBad

/-- R125: the report and the slots of a completing CK_HI come from `blk`, `buf`, `cklo` and the byte alone; the old
table is what they are written over. -/
theorem execCkHi_next_writes {x : Byte} {s t : State} (h : execCkHi x s = .next t) :
    s.blk.toNat < 90 ∧ t.out.evt = commitReport s.blk s.buf s.cklo x ∧ t.out.evtBlk = s.blk ∧
      t.tbl = s.tbl.writeBlock s.blk (committedSlots s.blk s.buf s.cklo x) := by
  obtain ⟨hblk, ⟨hmatch, rfl⟩ | ⟨hmatch, rfl⟩⟩ := execCkHi_next h <;>
    simp [hblk, commitReport, committedSlots, hmatch]

/-- Settles O47: both commits write the same four slots, so a read of them agrees. -/
theorem commitIgnoresOldTable : Obligations.CommitIgnoresOldTable := by
  intro x s t s' t' hblk hbuf hcklo hs ht
  obtain ⟨hlt, hsEvt, hsBlk, hsTbl⟩ := execCkHi_next_writes hs
  obtain ⟨-, htEvt, htBlk, htTbl⟩ := execCkHi_next_writes ht
  rw [← hblk, ← hbuf, ← hcklo] at htEvt htTbl
  refine ⟨hsEvt.trans htEvt.symm, hsBlk.trans (hblk.trans htBlk.symm), fun k a ha => ?_⟩
  rw [hsTbl, htTbl, read_writeBlock_same _ _ _ hlt k k.isLt a ha, read_writeBlock_same _ _ _ hlt k k.isLt a ha]

/-! ### The slots a consumer can see -/

/-- R46: what a lookup finds is listed, or it is the empty slot. -/
theorem lookup_empty_or_mem (t : Table) (a : Nat) : t.lookup a = Slot.empty ∨ (a, t.lookup a) ∈ t := by
  induction t with
  | nil => exact .inl rfl
  | cons p t ih =>
    obtain ⟨b, u⟩ := p
    rw [lookup_cons]
    by_cases hb : b = a
    · subst hb
      simp
    · rw [if_neg hb]
      exact ih.imp_right (List.mem_cons_of_mem _)

/-- R124: a table that lists legal slots reads as legal ones, at every address. -/
theorem read_legal {t : Table} (ht : ∀ p ∈ t, p.2.legal = true) (a : ReadAddr) : (t.read a).legal = true := by
  rw [read_eq]
  split
  · obtain hempty | hmem := lookup_empty_or_mem t a.toNat
    · rw [hempty]; rfl
    · exact ht _ hmem
  · rfl

/-- R124: the three kinds of legal slot. -/
theorem legal_iff (v : Slot) :
    v.legal = true ↔ v = Slot.empty ∨ (v.filled = true ∧ v.dist.toNat ≤ 0x3FFF) ∨ v = errorSlot := by
  simp [Slot.legal, errorSlot, or_assoc]

/-- R124: bit 15 of the distance tells the sentinel from every other legal slot. -/
theorem legal_bit15_iff {v : Slot} (h : v.legal = true) : v.dist.getLsbD 15 = true ↔ v = errorSlot := by
  refine ⟨fun hbit => ?_, fun hv => hv ▸ rfl⟩
  have hlarge : 2 ^ 15 ≤ v.dist.toNat := Nat.ge_two_pow_of_testBit hbit
  obtain rfl | ⟨-, hdist⟩ | hv := (legal_iff v).mp h
  · cases hbit
  · omega
  · exact hv

/-- R124: `filled` tells the empty slot from every other legal slot. -/
theorem legal_unfilled_iff {v : Slot} (h : v.legal = true) : v.filled = false ↔ v = Slot.empty := by
  refine ⟨fun hfilled => ?_, fun hv => hv ▸ rfl⟩
  obtain hv | ⟨htrue, -⟩ | rfl := (legal_iff v).mp h
  · exact hv
  · rw [hfilled] at htrue
    cases htrue
  · cases hfilled

/-- Settles O42: under the invariant every read is legal, and the three kinds of legal slot are told apart. -/
theorem consumersSeeLegalSlots : Obligations.ConsumersSeeLegalSlots := by
  intro s a h
  have hlegal := read_legal h.slots_legal a
  exact ⟨(legal_iff _).mp hlegal, legal_bit15_iff hlegal, legal_unfilled_iff hlegal⟩

end Sys2Proof.Proofs
end

section
/-! PROOFS. Family `43_control.md`: entering FAULT and STOPPED (R142, R143), IDLE (R144) and the bytes offered to a halted
block (R145). -/

namespace Sys2Proof.Proofs

open Sys2Proof.Machine Sys2Proof.Claims

/-! ### Running and halted states -/

theorem isRunning_iff (st : Framing) :
    isRunning st = true ↔ st = .seekStart ∨ st = .readIndex ∨ st = .readPacket ∨ st = .readChecksum := by
  cases st <;> decide

theorem isRunning_halted {st : Framing} (h : st = .fault ∨ st = .stopped) : isRunning st = false := by
  obtain rfl | rfl := h <;> rfl

/-- R146: a state that is not running asks for no byte, whatever the pins. -/
theorem inReady_of_not_running {st : Framing} (h : isRunning st = false) (p : Pins) : inReady st p = false := by
  simp [inReady, h]

/-! ### What the control vectors and a halted block's byte select -/

/-- R67: in FAULT and STOPPED every byte is HALTED_BYTE. -/
theorem decode_byte_halted {st : Framing} (h : st = .fault ∨ st = .stopped) (cnt : BitVec 5) (x : Byte) :
    decode st cnt (.cycle 0b0001 x) = .ok (.haltedByte x) := by
  obtain ⟨-, -, -, -, -, -, -, -, hfault, hstopped, -⟩ := decodeMapRowByRow cnt x
  obtain rfl | rfl := h
  · exact hfault
  · exact hstopped

/-- R72: the control vectors select their operations in every state, whatever `cnt` and the byte are. -/
theorem decode_control_vectors (st : Framing) (cnt : BitVec 5) (x : Byte) :
    decode st cnt (.cycle 0b1000 x) = .ok .reset ∧ decode st cnt (.cycle 0b0100 x) = .ok .srcErr ∧
      decode st cnt (.cycle 0b0010 x) = .ok .stop ∧ decode st cnt (.cycle 0b0000 x) = .ok .idle := by
  obtain ⟨-, -, -, -, -, -, -, -, -, -, hcontrol⟩ := decodeMapRowByRow cnt x
  exact hcontrol st

/-! ### The operations with their frames -/

/-- The model's step without effect is the claims' `nothingDone`. -/
theorem noEffect_eq_nothingDone (s : State) : s.noEffect = nothingDone s := rfl

/-- R142, R143: entering FAULT or STOPPED writes `st`, `cnt` and the report, and nothing else. -/
theorem enterHalt_eq (s : State) (target : Framing) (e : Evt) :
    s.enterHalt target e =
      { s with st := target, cnt := 0, out := { s.out with consumed := false, evt := e, evtBlk := 0 } } := rfl

/-- Settles O11: a halted block is not running, and HALTED_BYTE is the step without effect. -/
theorem haltedByteIsHeld : Obligations.HaltedByteIsHeld :=
  ⟨fun _ cnt x h => decode_byte_halted h cnt x, fun _ p h => inReady_of_not_running (isRunning_halted h) p,
    fun _ s => congrArg Host.Outcome.next (noEffect_eq_nothingDone s)⟩

/-- Settles O13: running, SRC_ERR enters FAULT; halted, it is the step without effect. -/
theorem srcErrEntersFault : Obligations.SrcErrEntersFault := by
  refine ⟨fun st cnt x => ?_, fun s hrun => ?_, fun s hhalt => ?_⟩
  · obtain ⟨-, hsrcErr, -, -⟩ := decode_control_vectors st cnt x
    exact hsrcErr
  · rw [← enterHalt_eq]
    exact execSrcErr_running s ((isRunning_iff _).mpr hrun)
  · rw [← noEffect_eq_nothingDone]
    exact execSrcErr_halted s hhalt

/-- Settles O14: running, STOP enters STOPPED; halted, it is the step without effect, so a fault stays visible. -/
theorem stopEntersStopped : Obligations.StopEntersStopped := by
  refine ⟨fun st cnt x => ?_, fun s hrun => ?_, fun s hhalt => ?_⟩
  · obtain ⟨-, -, hstop, -⟩ := decode_control_vectors st cnt x
    exact hstop
  · rw [← enterHalt_eq]
    exact execStop_running s ((isRunning_iff _).mpr hrun)
  · rw [← noEffect_eq_nothingDone]
    exact execStop_halted s hhalt

/-- Settles O15: IDLE is the step without effect. -/
theorem idleChangesNothing : Obligations.IdleChangesNothing := by
  refine ⟨fun st cnt x => ?_, fun s => congrArg Host.Outcome.next (noEffect_eq_nothingDone s)⟩
  obtain ⟨-, -, -, hidle⟩ := decode_control_vectors st cnt x
  exact hidle

end Sys2Proof.Proofs
end

section
/-! PROOFS. Family `60_exceptions.md`: the result codes and their emitters (R160) and the event the pins of a cycle form
(R166). -/

namespace Sys2Proof.Proofs

open Sys2Proof.Machine Sys2Proof.Claims

/-! ### The result codes -/

/-- The row of R160's table for the code `e`: by which operation `i` from `s` to `t` it is emitted and with which
angle-block. -/
def emitterRow (i : Instr) (s t : State) : Evt → Prop
  | .none => t.out.evtBlk = 0
  | .pktOk => (∃ x, i = .ckHi x) ∧ t.out.evtBlk = s.blk
  | .pktBad => (∃ x, i = .ckHi x) ∧ t.out.evtBlk = s.blk
  | .srcFault => i = .srcErr ∧ t.st = .fault ∧ t.out.evtBlk = 0
  | .stopAck => i = .stop ∧ t.st = .stopped ∧ t.out.evtBlk = 0

/-- R160: the code an operation of the block emits is emitted by its row. -/
theorem exec_emitterRow {i : Instr} {s t : State} (h : exec i s = .next t) (hi : i.format ≠ .port) :
    emitterRow i s t t.out.evt := by
  cases i with
  | seekMarker x | seekDiscard x | idxAccept x | idxRemark x | idxDiscard x | ckLo x | haltedByte x | reset | idle =>
    cases h; rfl
  | bodyByte x => obtain ⟨st, cnt, buf, rfl⟩ := execBodyByte_next h; rfl
  | ckHi x => obtain ⟨-, ⟨-, rfl⟩ | ⟨-, rfl⟩⟩ := execCkHi_next h <;> exact ⟨⟨x, rfl⟩, rfl⟩
  | srcErr =>
    obtain rfl | rfl := execSrcErr_next h
    · exact ⟨rfl, rfl, rfl⟩
    · rfl
  | stop =>
    obtain rfl | rfl := execStop_next h
    · exact ⟨rfl, rfl, rfl⟩
    · rfl
  | rdSlot addr | rdStatus => exact absurd rfl hi

/-- Settles O44, row by row of R160's table. -/
theorem resultCodesAndTheirEmitters : Obligations.ResultCodesAndTheirEmitters := by
  refine ⟨⟨rfl, rfl, rfl, rfl, rfl⟩, fun i s t h hi => ?_⟩
  have row (e : Evt) (he : t.out.evt = e) : emitterRow i s t e := he ▸ exec_emitterRow h hi
  exact ⟨row .pktOk, row .pktBad, row .srcFault, row .stopAck, row .none⟩

/-! ### The event of a cycle -/

/-- R72: the control vector of a byte alone selects by the byte. -/
theorem decode_byte_vector (st : Framing) (cnt : BitVec 5) (x : Byte) :
    decode st cnt (.cycle 0b0001 x) = decodeByte st cnt x := rfl

/-- R166: a control pin makes the cycle's event a CTRL operation, whatever byte is offered. -/
theorem decode_controlPin_format {s : State} {p : Pins} {i : Instr} (hp : s.input = .cycle p)
    (hpin : p.rst = true ∨ p.srcErr = true ∨ p.stop = true) (h : decode s.st s.cnt s.inputWord = .ok i) :
    i.format = .ctrl := by
  rw [decode_cycle s p hp] at h
  split_ifs at h with hrst hsrcErr hstop hoffers
  · cases h; rfl
  · cases h; rfl
  · cases h; rfl
  · simp [hrst, hsrcErr, hstop] at hpin
  · cases h; rfl

/-- A CTRL operation takes no byte from the source. -/
theorem exec_ctrl_holds {i : Instr} {s t : State} (h : exec i s = .next t) (hi : i.format = .ctrl) :
    t.source = s.source ∧ t.out.consumed = false := by
  cases i with
  | reset | idle => cases h; exact ⟨rfl, rfl⟩
  | srcErr => obtain rfl | rfl := execSrcErr_next h <;> exact ⟨rfl, rfl⟩
  | stop => obtain rfl | rfl := execStop_next h <;> exact ⟨rfl, rfl⟩
  | seekMarker x | seekDiscard x | idxAccept x | idxRemark x | idxDiscard x | bodyByte x | ckLo x | ckHi x
  | haltedByte x | rdSlot addr | rdStatus => cases hi

/-- R146: with a control pin the block asks for no byte, whatever its state. -/
theorem inReady_of_controlPin {p : Pins} (h : p.rst = true ∨ p.srcErr = true ∨ p.stop = true) (st : Framing) :
    inReady st p = false := by
  obtain h | h | h := h <;> simp [inReady, h]

/-- R166: in a cycle taken by a control pin the byte offered stays at the source. -/
theorem step_controlPin_holds {s t : State} {p : Pins} (hp : s.input = .cycle p) (h : step s = .next t)
    (hpin : p.rst = true ∨ p.srcErr = true ∨ p.stop = true) :
    t.source = s.source ∧ t.out.inReady = false ∧ t.out.consumed = false := by
  obtain ⟨i, hi, hexec⟩ := step_next h
  obtain ⟨hsource, hconsumed⟩ := exec_ctrl_holds hexec (decode_controlPin_format hp hpin hi)
  obtain ⟨c, e, b, hout⟩ := step_cycle_out hp h
  refine ⟨hsource.trans (beginStep_source s), ?_, hconsumed⟩
  rw [hout]
  exact inReady_of_controlPin hpin s.st

/-- Settles O31: the event by the priority of the decoder, and what a control pin leaves at the source. -/
theorem pinsFormOneEventByPriority : Obligations.PinsFormOneEventByPriority := by
  intro s p hp
  rw [decode_cycle s p hp]
  refine ⟨fun hrst => ?_, fun hrst hsrcErr => ?_, fun hrst hsrcErr hstop => ?_,
    fun hrst hsrcErr hstop hvalid x rest hsource => ?_, fun hrst hsrcErr hstop hvalid => ?_,
    fun t h hpin => step_controlPin_holds hp h hpin⟩
  · simp [hrst]
  · simp [hrst, hsrcErr]
  · simp [hrst, hsrcErr, hstop]
  · rw [decode_byte_vector]
    simp [hrst, hsrcErr, hstop, State.offers, hvalid, State.inByte, hsource]
  · simp [hrst, hsrcErr, hstop, State.offers, hvalid]

end Sys2Proof.Proofs
end

section
/-! PROOFS. Family `70_reset_and_hazards.md`: the reset values (R180) and the hold of FAULT and STOPPED (R187). -/

namespace Sys2Proof.Proofs

open Sys2Proof.Machine Sys2Proof.Claims

/-! ### Reset -/

/-- R28, R46: with no slot listed every read address, inside the table or outside, reads as the empty slot. -/
@[simp] theorem read_nil (a : ReadAddr) : Table.read [] a = Slot.empty := by
  rw [read_eq, lookup_nil, ite_self]

/-- R166: only `rst` asserted in a cycle gives the event Reset. -/
theorem rst_of_decode_reset {s : State} (h : decode s.st s.cnt s.inputWord = .ok .reset) :
    ∃ p, s.input = .cycle p ∧ p.rst = true := by
  cases hin : s.input with
  | cycle p =>
    rw [decode_cycle s p hin] at h
    split_ifs at h with hrst hsrcErr hstop hoffers
    · exact ⟨p, rfl, hrst⟩
    · cases h
    · cases h
    · cases decodeByte_format h
    · cases h
  | readSlot a => rw [decode_readSlot s a hin] at h; cases h
  | readStatus => rw [decode_readStatus s hin] at h; cases h

/-- Settles O12: RESET is `resetBlock`, which writes every register; the table it leaves lists no slot. -/
theorem resetRestoresEveryRegister : Obligations.ResetRestoresEveryRegister := by
  refine ⟨fun st cnt x => ?_, fun s => ⟨s.resetBlock, rfl, rfl, rfl, rfl, fun k => ?_, rfl, fun a => ?_, rfl, rfl, rfl,
    rfl, rfl, rfl⟩⟩
  · obtain ⟨hreset, -⟩ := decode_control_vectors st cnt x
    exact hreset
  · simp
  · rw [resetBlock_tbl, read_nil]
    rfl

/-! ### The hold of FAULT and STOPPED -/

/-- R187: from `s` to `t` nothing is consumed or reported, and nothing changes but the outputs. -/
def Holds (s t : State) : Prop :=
  ∃ o : Outputs, t = { s with out := o } ∧ o.consumed = false ∧ o.evt = .none

theorem noEffect_holds (s : State) : Holds s s.noEffect := ⟨_, rfl, rfl, rfl⟩

/-- R67: of the byte operations a halted state selects HALTED_BYTE alone. -/
theorem haltedByte_of_selectedIn {i : Instr} {st : Framing} {cnt : BitVec 5} (hhalt : st = .fault ∨ st = .stopped)
    (hsel : i.selectedIn st cnt = true) (hi : i.format = .byte) : ∃ x, i = .haltedByte x := by
  cases i with
  | haltedByte x => exact ⟨x, rfl⟩
  | seekMarker x | seekDiscard x | idxAccept x | idxRemark x | idxDiscard x | bodyByte x | ckLo x | ckHi x =>
    obtain rfl | rfl := hhalt <;> cases hsel
  | reset | srcErr | stop | idle | rdSlot addr | rdStatus => cases hi

/-- R187: in a halted state, begun with an empty report, every operation selected but RESET holds. -/
theorem exec_halted_holds {i : Instr} {s t : State} (hhalt : s.st = .fault ∨ s.st = .stopped)
    (hsel : i.selectedIn s.st s.cnt = true) (hreset : i ≠ .reset) (hconsumed : s.out.consumed = false)
    (hevt : s.out.evt = .none) (h : exec i s = .next t) : Holds s t := by
  cases i with
  | reset => exact absurd rfl hreset
  | srcErr => cases (execSrcErr_halted s hhalt).symm.trans h; exact noEffect_holds s
  | stop => cases (execStop_halted s hhalt).symm.trans h; exact noEffect_holds s
  | haltedByte x | idle => cases h; exact noEffect_holds s
  | rdSlot addr | rdStatus => cases h; exact ⟨_, rfl, hconsumed, hevt⟩
  | seekMarker x | seekDiscard x | idxAccept x | idxRemark x | idxDiscard x | bodyByte x | ckLo x | ckHi x =>
    obtain ⟨y, hy⟩ := haltedByte_of_selectedIn hhalt hsel rfl
    cases hy

/-- R187: a step of a halted block runs RESET or holds. -/
theorem step_halted {s t : State} (hhalt : s.st = .fault ∨ s.st = .stopped) (h : step s = .next t) :
    (decode s.st s.cnt s.inputWord = .ok .reset ∧ t = s.beginStep.resetBlock) ∨ Holds s.beginStep t := by
  obtain ⟨i, hi, hexec⟩ := step_next h
  by_cases hreset : i = .reset
  · subst hreset
    cases hexec
    exact .inl ⟨hi, rfl⟩
  · obtain ⟨-, hsel⟩ := decode_selects hi
    obtain ⟨hconsumed, hevt, -⟩ := beginStep_reports_nothing s
    exact .inr (exec_halted_holds (by simpa using hhalt) (by simpa using hsel) hreset hconsumed hevt hexec)

/-- Settles O45: the RESET case is the cycle with `rst`, and the hold keeps what the beginning of the step kept. -/
theorem haltIsLeftOnlyByReset : Obligations.HaltIsLeftOnlyByReset := by
  intro s t hhalt h
  obtain ⟨hdecode, rfl⟩ | ⟨o, rfl, hconsumed, hevt⟩ := step_halted hhalt h
  · obtain ⟨p, hp, hrst⟩ := rst_of_decode_reset hdecode
    exact .inl ⟨p, hp, hrst, rfl⟩
  · exact .inr ⟨beginStep_st s, beginStep_samePublished s, beginStep_source s, hconsumed, hevt⟩

end Sys2Proof.Proofs
end

section
/-! PROOFS. Family `other`: the decoder and the encoder (30_encoding.md R67, R72), the long word of a selection and a
word placed as the next input (log 9). -/

namespace Sys2Proof.Proofs

open Sys2Proof.Machine Sys2Proof.Claims

/-! ### The decoder reads what the encoder writes -/

/-- R67, R72: the input of an operation selects it again, a byte operation by its state, its byte class and, in
READ_CHECKSUM, by `cnt`. -/
theorem decode_encode {i : Instr} {st : Framing} {cnt : BitVec 5} (hwf : i.wellFormed = true)
    (hsel : i.selectedIn st cnt = true) : decode st cnt (encode i) = .ok i := by
  cases i with
  | seekMarker x =>
    obtain rfl := beq_iff_eq.mp hsel
    exact congrArg Except.ok (if_pos hwf)
  | seekDiscard x =>
    obtain rfl := beq_iff_eq.mp hsel
    exact congrArg Except.ok (if_neg (by simpa [Instr.wellFormed] using hwf))
  | idxAccept x => obtain rfl := beq_iff_eq.mp hsel; exact decodeByte_readIndex_index cnt hwf
  | idxRemark x => obtain rfl := beq_iff_eq.mp hsel; exact decodeByte_readIndex_marker cnt hwf
  | idxDiscard x => obtain rfl := beq_iff_eq.mp hsel; exact decodeByte_readIndex_neither cnt hwf
  | bodyByte x => obtain rfl := beq_iff_eq.mp hsel; rfl
  | ckLo x =>
    simp only [Instr.selectedIn, Bool.and_eq_true, beq_iff_eq] at hsel
    obtain ⟨rfl, rfl⟩ := hsel
    rfl
  | ckHi x =>
    simp only [Instr.selectedIn, Bool.and_eq_true, beq_iff_eq, bne_iff_ne] at hsel
    obtain ⟨rfl, hcnt⟩ := hsel
    exact congrArg Except.ok (if_neg hcnt)
  | haltedByte x =>
    simp only [Instr.selectedIn, Bool.or_eq_true, beq_iff_eq] at hsel
    exact decode_byte_halted hsel cnt x
  | reset | srcErr | stop | idle | rdSlot addr | rdStatus => rfl

/-! ### The long word of a selection -/

theorem ofCode_code (st : Framing) : Framing.ofCode st.code = st := by
  cases st <;> rfl

/-- A field of a long word is read off its number. -/
theorem field_eq {w start len : Nat} {f : BitVec len} (hlen : start + len ≤ 22)
    (hf : w / 2 ^ start % 2 ^ len = f.toNat) : (BitVec.ofNat 22 w).extractLsb' start len = f := by
  have hsplit : 2 ^ 22 = 2 ^ start * 2 ^ (22 - start) := by rw [← pow_add, Nat.add_sub_of_le (by omega)]
  have hdvd : 2 ^ len ∣ 2 ^ (22 - start) := pow_dvd_pow 2 (by omega)
  apply BitVec.eq_of_toNat_eq
  rw [BitVec.extractLsb'_toNat, BitVec.toNat_ofNat, Nat.shiftRight_eq_div_pow, hsplit, Nat.mod_mul_right_div_self,
    Nat.mod_mod_of_dvd _ hdvd, hf]

theorem fields_toBits_cycle (st : Framing) (cnt : BitVec 5) (v : ControlVector) (x : Byte) :
    Selection.fields (Selection.toBits ⟨st, cnt, .cycle v x⟩) = ⟨st, cnt, .cycle v x⟩ := by
  have hx := x.isLt
  have hv := v.isLt
  have hst := st.code.isLt
  have hcnt := cnt.isLt
  generalize hw : Selection.toBits ⟨st, cnt, .cycle v x⟩ = w
  simp only [Selection.toBits] at hw
  have hkind : (BitVec.ofNat 22 w).extractLsb' 20 2 = 0 := field_eq (by omega) (show _ = 0 by omega)
  rw [Selection.fields, if_pos hkind, field_eq (f := st.code) (by omega) (by omega),
    field_eq (f := cnt) (by omega) (by omega), field_eq (f := v) (by omega) (by omega),
    field_eq (f := x) (by omega) (by omega), ofCode_code]

/-- The long word of a consumer read says nothing of `st` and `cnt`, which come out 0. -/
theorem fields_toBits_rdSlot (st : Framing) (cnt : BitVec 5) (addr : ReadAddr) :
    Selection.fields (Selection.toBits ⟨st, cnt, .rdSlot addr⟩) = ⟨.seekStart, 0, .rdSlot addr⟩ := by
  have haddr := addr.isLt
  generalize hw : Selection.toBits ⟨st, cnt, .rdSlot addr⟩ = w
  simp only [Selection.toBits] at hw
  have hkind : (BitVec.ofNat 22 w).extractLsb' 20 2 = 1 := field_eq (by omega) (show _ = 1 by omega)
  rw [Selection.fields, hkind, if_neg (by decide), if_pos rfl, field_eq (f := addr) (by omega) (by omega)]

theorem fields_toBits_rdStatus (st : Framing) (cnt : BitVec 5) :
    Selection.fields (Selection.toBits ⟨st, cnt, .rdStatus⟩) = ⟨.seekStart, 0, .rdStatus⟩ := by
  change Selection.fields (2 ^ 21) = _
  decide

theorem decodeTableWord_of_selection {nbits w : Nat} {sel : Selection} (h : selectionOfWord nbits w = some sel) :
    decodeTableWord nbits w = (decode sel.st sel.cnt sel.word).toOption := by
  rw [decodeTableWord, h]

/-- A long word is the selection of its fields when it has no bit outside them. -/
theorem selectionOfWord_of_fields {nbits w : Nat} {sel : Selection} (hn : 8 < nbits)
    (hfields : Selection.fields w = sel) (hbits : sel.toBits = w) : selectionOfWord nbits w = some sel := by
  rw [selectionOfWord, if_neg (by omega), hfields, if_pos hbits]

/-- What the long word of a selection decodes to is what the selection decodes to. -/
theorem decodeTableWord_toBits {nbits : Nat} (hn : 8 < nbits) (st : Framing) (cnt : BitVec 5) (w : InputWord) :
    decodeTableWord nbits (Selection.toBits ⟨st, cnt, w⟩) = (decode st cnt w).toOption := by
  have hread {sel : Selection} (hfields : Selection.fields (Selection.toBits ⟨st, cnt, w⟩) = sel)
      (hbits : sel.toBits = Selection.toBits ⟨st, cnt, w⟩) := selectionOfWord_of_fields hn hfields hbits
  cases w with
  | cycle v x => exact decodeTableWord_of_selection (hread (fields_toBits_cycle st cnt v x) rfl)
  | rdSlot addr => exact decodeTableWord_of_selection (hread (fields_toBits_rdSlot st cnt addr) rfl)
  | rdStatus => exact decodeTableWord_of_selection (hread (fields_toBits_rdStatus st cnt) rfl)

/-- Settles O33: the decoder inverts the encoder, and the long word keeps what the decoder reads. -/
theorem decodeOfEncodeIsIdentity : Obligations.DecodeOfEncodeIsIdentity := by
  intro i st cnt hwf hsel
  have hdecode := decode_encode hwf hsel
  refine ⟨hdecode, ?_⟩
  rw [decodeTableWord_toBits (by decide), hdecode]
  rfl

/-! ### What the decoder answers is what was encoded -/

/-- R72: a byte event is the encoding of the operation it selects. -/
theorem encode_of_decodeByte {st : Framing} {cnt : BitVec 5} {x : Byte} {i : Instr}
    (h : decodeByte st cnt x = .ok i) : encode i = .cycle 0b0001 x := by
  cases st with
  | seekStart | readIndex | readChecksum => cases h; split_ifs <;> rfl
  | readPacket | fault | stopped => cases h; rfl
  | unused6 | unused7 => cases h

/-- R72: `0001` is the one control vector without a control pin in which a byte is offered. -/
theorem controlVector_eq_byte : ∀ {v : ControlVector}, ¬ v.rst = true → ¬ v.srcErr = true →
    ¬ v.stop = true → v.inValid = true → v = 0b0001 := by decide

/-- R72: a cycle whose event is no CTRL operation is a byte event. -/
theorem decode_cycle_not_ctrl {st : Framing} {cnt : BitVec 5} {v : ControlVector} {x : Byte} {i : Instr}
    (h : decode st cnt (.cycle v x) = .ok i) (hi : i.format ≠ .ctrl) :
    v = 0b0001 ∧ decodeByte st cnt x = .ok i := by
  rw [decode] at h
  split_ifs at h with hrst hsrcErr hstop hvalid
  · cases h; exact absurd rfl hi
  · cases h; exact absurd rfl hi
  · cases h; exact absurd rfl hi
  · exact ⟨controlVector_eq_byte hrst hsrcErr hstop hvalid, h⟩
  · cases h; exact absurd rfl hi

theorem eq_encode_of_decode {st : Framing} {cnt : BitVec 5} {w : InputWord} {i : Instr} (h : decode st cnt w = .ok i)
    (hi : i.format ≠ .ctrl) : w = encode i := by
  cases w with
  | cycle v x =>
    obtain ⟨rfl, hbyte⟩ := decode_cycle_not_ctrl h hi
    exact (encode_of_decodeByte hbyte).symm
  | rdSlot addr | rdStatus => cases h; rfl

/-- Settles O34: what a decoding selects, and that only CTRL operations have more than one input. -/
theorem decodedOperationsAreWellFormed : Obligations.DecodedOperationsAreWellFormed := by
  intro i st cnt w h
  obtain ⟨hwf, hsel⟩ := decode_selects h
  exact ⟨hwf, hsel, eq_encode_of_decode h⟩

/-! ### A word placed as the next input -/

/-- Placing a cycle puts its pins first in the schedule and its byte, if it offers one, first at the source; a byte
event is also given its `st` and `cnt`. -/
theorem place_cycle (s : State) (st : Framing) (cnt : BitVec 5) (v : ControlVector) (x : Byte) :
    s.place ⟨st, cnt, .cycle v x⟩ =
      { s with
        inputs := .cycle (pinsOf v) :: s.inputs
        source := if v.inValid then x :: s.source else s.source
        st     := if v = 0b0001 then st else s.st
        cnt    := if v = 0b0001 then cnt else s.cnt } := by
  simp only [State.place]
  split <;> rfl

theorem place_offers (s : State) (st : Framing) (cnt : BitVec 5) (v : ControlVector) (x : Byte) :
    (s.place ⟨st, cnt, .cycle v x⟩).offers (pinsOf v) = v.inValid := by
  rw [place_cycle]
  cases hv : v.inValid <;> simp [State.offers, pinsOf, hv]

/-- The step of a state with a selection placed decodes that selection. -/
theorem decode_place (s : State) (sel : Selection) :
    decode (s.place sel).st (s.place sel).cnt (s.place sel).inputWord = decode sel.st sel.cnt sel.word := by
  obtain ⟨st, cnt, w⟩ := sel
  cases w with
  | cycle v x =>
    obtain ⟨hpr, hpe, hps⟩ : (pinsOf v).rst = v.rst ∧ (pinsOf v).srcErr = v.srcErr ∧ (pinsOf v).stop = v.stop :=
      ⟨rfl, rfl, rfl⟩
    rw [decode_cycle _ (pinsOf v) (by rw [place_cycle]; rfl), place_offers, hpr, hpe, hps, decode]
    split_ifs with hrst hsrcErr hstop hvalid
    · rfl
    · rfl
    · rfl
    · obtain rfl := controlVector_eq_byte hrst hsrcErr hstop hvalid
      rfl
    · rfl
  | rdSlot addr | rdStatus => rfl

/-- The placed input is the first of the schedule. -/
theorem place_inputs_tail (s : State) (sel : Selection) : (s.place sel).inputs.tail = s.inputs := by
  obtain ⟨st, cnt, w⟩ := sel
  cases w with
  | cycle v x => rw [place_cycle]; rfl
  | rdSlot addr | rdStatus => rfl

/-- Placing the selection of an operation that is no byte event leaves `st` and `cnt`. -/
theorem place_keeps_st_cnt (s : State) {sel : Selection} {i : Instr} (h : decode sel.st sel.cnt sel.word = .ok i)
    (hi : i.format ≠ .byte) : (s.place sel).st = s.st ∧ (s.place sel).cnt = s.cnt := by
  obtain ⟨st, cnt, w⟩ := sel
  cases w with
  | cycle v x =>
    have hv : v ≠ 0b0001 := by rintro rfl; exact hi (decodeByte_format h)
    rw [place_cycle]
    exact ⟨if_neg hv, if_neg hv⟩
  | rdSlot addr | rdStatus => exact ⟨rfl, rfl⟩

/-- A word that names an operation names a selection that decodes to it. -/
theorem selection_of_decodeTableWord {nbits w : Nat} {i : Instr} (h : decodeTableWord nbits w = some i) :
    ∃ sel, selectionOfWord nbits w = some sel ∧ decode sel.st sel.cnt sel.word = .ok i := by
  cases hsel : selectionOfWord nbits w with
  | none => rw [decodeTableWord, hsel] at h; cases h
  | some sel =>
    rw [decodeTableWord_of_selection hsel] at h
    refine ⟨sel, rfl, ?_⟩
    cases hd : decode sel.st sel.cnt sel.word with
    | ok j => rw [hd] at h; cases h; rfl
    | error e => rw [hd] at h; cases h

theorem withFetchWord_of_selection (s : State) {nbits w : Nat} {sel : Selection}
    (h : selectionOfWord nbits w = some sel) : s.withFetchWord nbits w = s.place sel := by
  rw [State.withFetchWord, State.placeWord, h]

/-- Settles O36: the word is placed as its selection, which the step decodes. -/
theorem placedWordRunsNext : Obligations.PlacedWordRunsNext := by
  intro s nbits w i h
  obtain ⟨sel, hsel, hdecode⟩ := selection_of_decodeTableWord h
  rw [withFetchWord_of_selection s hsel]
  exact ⟨step_of_decode ((decode_place s sel).trans hdecode), (beginStep_inputs _).trans (place_inputs_tail s sel),
    place_tbl s sel, place_buf s sel, place_blk s sel, place_errCnt s sel, place_keeps_st_cnt s hdecode⟩

end Sys2Proof.Proofs
end

section
/-! PROOFS. Family `other`: the byte a cycle consumes (43_control.md R146), what a step runs (R141) and where it stops
(10_state.md R21, R22, R24), the invariant of every step, and the steps that leave the block as it was (R144, log 8). -/

namespace Sys2Proof.Proofs

open Sys2Proof.Machine Sys2Proof.Claims

/-! ### The byte a cycle consumes -/

/-- R80 to R87: the operations that consume their byte; HALTED_BYTE alone of the byte operations does not (R145). -/
def takesByte : Instr → Bool
  | .seekMarker _ | .seekDiscard _ | .idxAccept _ | .idxRemark _ | .idxDiscard _ | .bodyByte _ | .ckLo _
  | .ckHi _ => true
  | .haltedByte _ | .reset | .srcErr | .stop | .idle | .rdSlot _ | .rdStatus => false

theorem takesByte_of_ctrl {i : Instr} (h : i.format = .ctrl) : takesByte i = false := by
  cases i with
  | reset | srcErr | stop | idle => rfl
  | seekMarker x | seekDiscard x | idxAccept x | idxRemark x | idxDiscard x | bodyByte x | ckLo x | ckHi x
  | haltedByte x | rdSlot addr | rdStatus => cases h

/-- What an operation of the block says it consumes is what it takes from the source. -/
theorem exec_consumes {i : Instr} {s t : State} (h : exec i s = .next t) (hi : i.format ≠ .port) :
    t.out.consumed = takesByte i ∧ t.source = if takesByte i then s.source.tail else s.source := by
  cases i with
  | seekMarker x | seekDiscard x | idxAccept x | idxRemark x | idxDiscard x | ckLo x => cases h; exact ⟨rfl, rfl⟩
  | bodyByte x => obtain ⟨st, cnt, buf, rfl⟩ := execBodyByte_next h; exact ⟨rfl, rfl⟩
  | ckHi x => obtain ⟨-, ⟨-, rfl⟩ | ⟨-, rfl⟩⟩ := execCkHi_next h <;> exact ⟨rfl, rfl⟩
  | haltedByte x => cases h; exact ⟨rfl, rfl⟩
  | reset | srcErr | stop | idle =>
    obtain ⟨hsource, hconsumed⟩ := exec_ctrl_holds h rfl
    exact ⟨hconsumed, hsource⟩
  | rdSlot addr | rdStatus => exact absurd rfl hi

/-- R141: a byte event is of an operation that takes its byte exactly in the running states. -/
theorem decodeByte_takesByte {st : Framing} {cnt : BitVec 5} {x : Byte} {i : Instr}
    (h : decodeByte st cnt x = .ok i) : takesByte i = isRunning st := by
  cases st with
  | seekStart | readIndex | readChecksum => cases h; split_ifs <;> rfl
  | readPacket | fault | stopped => cases h; rfl
  | unused6 | unused7 => cases h

/-- R146: the event of a cycle takes a byte exactly when one is offered and `in_ready` is 1. -/
theorem decode_cycle_takesByte {s : State} {p : Pins} {i : Instr} (hp : s.input = .cycle p)
    (h : decode s.st s.cnt s.inputWord = .ok i) : takesByte i = (s.offers p && inReady s.st p) := by
  by_cases hpin : p.rst = true ∨ p.srcErr = true ∨ p.stop = true
  · rw [takesByte_of_ctrl (decode_controlPin_format hp hpin h), inReady_of_controlPin hpin, Bool.and_false]
  · simp only [not_or, Bool.not_eq_true] at hpin
    obtain ⟨hrst, hsrcErr, hstop⟩ := hpin
    rw [decode_cycle s p hp, hrst, hsrcErr, hstop] at h
    cases hoffers : s.offers p with
    | false => rw [hoffers] at h; cases h; rfl
    | true =>
      rw [hoffers] at h
      rw [decodeByte_takesByte h]
      simp [inReady, hrst, hsrcErr, hstop]

/-- R146. -/
theorem inReady_iff (st : Framing) (p : Pins) :
    inReady st p = true ↔ p.rst = false ∧ p.srcErr = false ∧ p.stop = false ∧
      (st = .seekStart ∨ st = .readIndex ∨ st = .readPacket ∨ st = .readChecksum) := by
  simp [inReady, isRunning_iff, and_assoc]

theorem offers_iff (s : State) (p : Pins) : s.offers p = true ↔ p.inValid = true ∧ s.source ≠ [] := by
  simp [State.offers]

/-- Settles O38: `in_ready` is set at the beginning of the step, and the event decoded takes a byte exactly with it. -/
theorem byteConsumedExactlyWhenReady : Obligations.ByteConsumedExactlyWhenReady := by
  intro s t p hp h
  obtain ⟨i, hi, hexec⟩ := step_next h
  obtain ⟨hconsumed, hsource⟩ := exec_consumes hexec (decode_cycle_not_port hp hi)
  have hready : t.out.inReady = inReady s.st p := by
    obtain ⟨c, e, b, hout⟩ := step_cycle_out hp h
    rw [hout]; rfl
  refine ⟨?_, ?_, ?_⟩
  · rw [hready, inReady_iff]
  · rw [hconsumed, decode_cycle_takesByte hp hi, hready, Bool.and_eq_true, offers_iff, and_assoc]
  · rw [hconsumed, hsource, beginStep_source]

/-! ### What a step runs, and where it stops -/

/-- R146: the outputs at the beginning of a step are the ports of the pins seen; a consumer read drives none (log 8). -/
theorem beginStep_eq_ports (s : State) :
    s.beginStep = { s with inputs := s.inputs.tail, out := s.ports (pinsSeen s.input) } := by
  cases hin : s.input with
  | cycle p => simp only [State.beginStep, hin, pinsSeen]
  | readSlot a => simp only [State.beginStep, hin, pinsSeen]; rfl
  | readStatus => simp only [State.beginStep, hin, pinsSeen]; rfl

/-- Settles O35: the operation decoded runs in the state the step has begun, whose outputs are the ports. -/
theorem stepRunsDecodedOperation : Obligations.StepRunsDecodedOperation := by
  refine ⟨fun s i hi => ?_, fun s e he => ?_⟩
  · rw [step_of_decode hi, beginStep_eq_ports]
    rfl
  · rw [step_of_error he]
    rfl

theorem decodeByte_unused {st : Framing} (h : st = .unused6 ∨ st = .unused7) (cnt : BitVec 5) (x : Byte) :
    decodeByte st cnt x = .error .unusedFramingState := by
  obtain rfl | rfl := h <;> rfl

theorem execSrcErr_unused {s : State} (h : s.st = .unused6 ∨ s.st = .unused7) :
    execSrcErr s = .fault .unusedFramingState := by
  obtain h | h := h <;> simp only [execSrcErr, h]

theorem execStop_unused {s : State} (h : s.st = .unused6 ∨ s.st = .unused7) :
    execStop s = .fault .unusedFramingState := by
  obtain h | h := h <;> simp only [execStop, h]

/-- Settles O18: the stops of BODY_BYTE, CK_HI, SRC_ERR and STOP, and the byte that decodes to nothing. -/
theorem unreachableStatesStop : Obligations.UnreachableStatesStop := by
  refine ⟨fun x s hcnt => execBodyByte_of_ge x s (by omega), fun x s hblk => execCkHi_stop x s (by omega),
    fun s hst => ⟨execSrcErr_unused hst, execStop_unused hst⟩, ?_⟩
  intro s p hst hp hrst hsrcErr hstop hvalid hsource
  have hoffers := (offers_iff s p).mpr ⟨hvalid, hsource⟩
  refine step_of_error (e := .unusedFramingState) ?_
  rw [decode_cycle s p hp, hrst, hsrcErr, hstop, hoffers]
  exact decodeByte_unused hst s.cnt s.inByte

/-- Settles O32: each word is closed, and the decoder computes its operation. -/
theorem wordsDecodeToTheirOperations : Obligations.WordsDecodeToTheirOperations :=
  ⟨rfl, rfl, rfl, rfl, rfl, rfl, rfl, rfl, rfl⟩

/-! ### The invariant -/

/-- Settles O39: the reset state is what RESET makes of it. -/
theorem resetMeetsInvariant : Obligations.ResetMeetsInvariant :=
  resetBlock_inv State.reset

/-- Settles O40: under the invariant the step goes on to one state alone, and that state meets it. -/
theorem stepKeepsInvariant : Obligations.StepKeepsInvariant := by
  intro s t hinv h
  obtain ⟨u, hu, huinv⟩ := stepNeverStopsUnderInvariant s hinv
  obtain rfl : u = t := Host.Outcome.next.inj (hu.symm.trans h)
  exact huinv

/-! ### Steps that leave the block as it was -/

/-- An operation that writes only the outputs makes a step that changes only the schedule and the outputs. -/
theorem beginStep_with_out (s : State) (o : Outputs) :
    { s.beginStep with out := o } = { s with inputs := s.inputs.tail, out := o } := by
  rw [beginStep_eq_ports]

/-- Settles O53: an empty source offers nothing, whatever `in_valid` is, and the event is Idle. -/
theorem emptySourceIdles : Obligations.EmptySourceIdles := by
  intro s p hp hrst hsrcErr hstop hsource
  have hoffers : s.offers p = false := by simp [State.offers, hsource]
  have hidle : decode s.st s.cnt s.inputWord = .ok .idle := by
    rw [decode_cycle s p hp, hrst, hsrcErr, hstop, hoffers]
    rfl
  exact ⟨hidle, s.beginStep.noEffect, step_of_decode hidle, rfl, rfl, rfl, beginStep_with_out s _⟩

/-- A consumer read writes the outputs, and of them nothing that is reported. -/
theorem exec_read {i : Instr} (hi : i.format = .port) (s : State) :
    ∃ o : Outputs, exec i s = .next { s with out := o } ∧ o.evt = s.out.evt ∧ o.evtBlk = s.out.evtBlk ∧
      o.consumed = s.out.consumed := by
  cases i with
  | rdSlot addr | rdStatus => exact ⟨_, rfl, rfl, rfl, rfl⟩
  | seekMarker x | seekDiscard x | idxAccept x | idxRemark x | idxDiscard x | bodyByte x | ckLo x | ckHi x
  | haltedByte x | reset | srcErr | stop | idle => cases hi

/-- Settles O56: a consumer read keeps the empty report with which its step begins. -/
theorem readStepsReportNothing : Obligations.ReadStepsReportNothing := by
  intro s hread
  obtain ⟨i, hi, hport⟩ : ∃ i, decode s.st s.cnt s.inputWord = .ok i ∧ i.format = .port := by
    obtain ⟨a, ha⟩ | hs := hread
    · exact ⟨_, decode_readSlot s a ha, rfl⟩
    · exact ⟨_, decode_readStatus s hs, rfl⟩
  obtain ⟨hconsumed, hevt, hevtBlk⟩ := beginStep_reports_nothing s
  obtain ⟨o, hexec, hoevt, hoevtBlk, hoconsumed⟩ := exec_read hport s.beginStep
  exact ⟨_, (step_of_decode hi).trans hexec, hoevt.trans hevt, hoevtBlk.trans hevtBlk, hoconsumed.trans hconsumed,
    beginStep_with_out s o⟩

end Sys2Proof.Proofs
end
